-- ==== Sys2Proof/Word.lean ====
section
/-! DEFINITION. The word types of OWC-T: 8-bit bytes, the 16-bit raw temperature, 32-bit registers (00_scope.md R8). -/

namespace Sys2Proof

/-- A bus byte, a scratchpad byte, the CRC register (R8). -/
abbrev Byte := BitVec 8

/-- A raw temperature or a range bound: 16 bits, two's complement (R8, R33, R166). -/
abbrev Half := BitVec 16

/-- A register, and the CMD word (R8, R23, R90). -/
abbrev Word := BitVec 32

end Sys2Proof
end

