-- ==== Sys2Proof/Syntax.lean ====
section
/-! DEFINITION. The commands of OWC-T (30_encoding.md R92, opcode_table.json), the names of its registers
(10_state.md R23), and the assembler lines of R100 to R102. -/

namespace Sys2Proof

/-- The seven commands.  A field named `ign` holds DATA bits the command ignores (R93): they are no reserved bits, any
value is legal, and acceptance latches them into `cur_data` with the rest of DATA (R95), so the syntax keeps them. -/
inductive Instr where
  /-- `ow.reset` (R120). -/
  | reset (ign : Byte)
  /-- `ow.wbit v` (R125): `v` is CMD[8], `ign` is CMD[15:9]. -/
  | writeBit (v : Bool) (ign : BitVec 7)
  /-- `ow.rbit` (R130). -/
  | readBit (ign : Byte)
  /-- `ow.wbyte b` (R140). -/
  | writeByte (b : Byte)
  /-- `ow.rbyte` (R145). -/
  | readByte (ign : Byte)
  /-- `ow.readsp` (R150). -/
  | readSp (ign : Byte)
  /-- `ow.validate` (R170). -/
  | validate (ign : Byte)
deriving DecidableEq, Repr

/-- The registers a word index of the window selects (R23); `reserved` stands for each of 0x28 to 0x3C, which act
alike (R37). -/
inductive Reg where
  | ctrl | status | cmd | rxdata | crc | sp0 | sp1 | sp2 | temp | range | reserved
deriving DecidableEq, Repr

/-- Assembler lines: the command mnemonics (R100), the two host directives that touch OWC-T (R101 `wr`, `rd`) and the
pseudo-instructions that expand to a fixed list of accesses (R102).  Operands are numbers as an assembler reads them;
`AsmLine.wellFormed` says which it accepts. -/
inductive AsmLine where
  | reset
  | wbit (v : Nat)
  | rbit
  | wbyte (b : Nat)
  | rbyte
  | readsp
  | validate
  | wr (r : Reg) (imm : Nat)
  | rd (r : Reg)
  | skipRom
  | convertT
  | readScratchCmd
  | clear
  | softreset
  | range (lo hi : Int)
  | loadsp (bytes : List Nat)
deriving DecidableEq, Repr

end Sys2Proof
end

