-- ==== Sys2Proof/WellFormed.lean ====
section
/-! DEFINITION. Which terms are well formed: every `Instr` is, by its types, since OWC-T reserves no DATA value (R93);
an assembler line is when its operands are in the ranges of R100 and R102. -/

namespace Sys2Proof

/-- Every DATA value of every command is legal (R93), and the field types admit no other value, so no term of `Instr`
is ill formed; the range checks of the spec concern the assembler's numbers (`AsmLine.wellFormed`). -/
def Instr.wellFormed : Instr → Bool
  | .reset _ | .writeBit _ _ | .readBit _ | .writeByte _ | .readByte _ | .readSp _ | .validate _ => true

/-- The operand ranges of R100 ("An assembler rejects …"), R101 (`imm32`) and R102 (`lo`, `hi` signed 16-bit raw
values, nine bytes for `ow.loadsp`). -/
def AsmLine.wellFormed : AsmLine → Bool
  | .wbit v => v ≤ 1
  | .wbyte b => b ≤ 255
  | .wr r imm => imm < 2 ^ 32 && r != .reserved
  | .rd r => r != .reserved
  | .range lo hi => -32768 ≤ lo && lo ≤ 32767 && -32768 ≤ hi && hi ≤ 32767
  | .loadsp bytes => bytes.length == 9 && bytes.all (· ≤ 255)
  | .reset | .rbit | .rbyte | .readsp | .validate => true
  | .skipRom | .convertT | .readScratchCmd | .clear | .softreset => true

end Sys2Proof
end

