-- ==== Sys2Proof/Decode.lean ====
section
/-! DEFINITION. Decoding of the CMD word (30_encoding.md R91 to R97), its encoder, and the assembler of R100 to
R102. Everything is total: a word is a command or it is rejected by name. -/

namespace Sys2Proof

/-- Why a CMD word is no command (R94, R96): its opcode, which is 0x0 or 0x8 to 0xF. -/
inductive DecodeError where
  | illegalOpcode (op : BitVec 4)
deriving DecidableEq, Repr

/-- CMD.OP, bits 3:0 (R91). -/
def opField (v : Word) : BitVec 4 := v.extractLsb' 0 4

/-- CMD.DATA, bits 15:8 (R91). -/
def dataField (v : Word) : Byte := v.extractLsb' 8 8

/-- Bits 7:4 or 31:16 of a CMD word are not all 0 (R97). -/
def cmdReservedSet (v : Word) : Bool := v.extractLsb' 4 4 != 0 || v.extractLsb' 16 16 != 0

/-- `decode` of R94. Bits 7:4 and 31:16 take no part in it. -/
def decode (v : Word) : Except DecodeError Instr :=
  match (opField v).toNat with
  | 1 => .ok (.reset (dataField v))
  | 2 => .ok (.writeBit ((dataField v).getLsbD 0) ((dataField v).extractLsb' 1 7))
  | 3 => .ok (.readBit (dataField v))
  | 4 => .ok (.writeByte (dataField v))
  | 5 => .ok (.readByte (dataField v))
  | 6 => .ok (.readSp (dataField v))
  | 7 => .ok (.validate (dataField v))
  | _ => .error (.illegalOpcode (opField v))

/-- The opcode of a command (R92). -/
def Instr.opcode : Instr → BitVec 4
  | .reset _ => 0x1
  | .writeBit _ _ => 0x2
  | .readBit _ => 0x3
  | .writeByte _ => 0x4
  | .readByte _ => 0x5
  | .readSp _ => 0x6
  | .validate _ => 0x7

/-- The DATA byte of a command, operand and ignored bits together (R91, R93). -/
def Instr.data : Instr → Byte
  | .reset ign => ign
  | .writeBit v ign => ign ++ BitVec.ofBool v
  | .readBit ign => ign
  | .writeByte b => b
  | .readByte ign => ign
  | .readSp ign => ign
  | .validate ign => ign

/-- The CMD word of a command, reserved bits 0 (R91). -/
def encode (i : Instr) : Word := (0#16 ++ i.data ++ 0#4 ++ i.opcode : BitVec 32)

/-- The instruction the decoder reads from the table word `w` of `nbits` bits.  A CMD word is one 32-bit value (R90),
so its bits need no laying out in bytes; the bits above `nbits` are 0. -/
def decodeTableWord (nbits w : Nat) : Option Instr :=
  match decode (BitVec.ofNat 32 (w % 2 ^ nbits)) with
  | .ok i => some i
  | .error _ => none

/-- `off(REG)`: the byte offset of a register (R23). The reserved offsets have no name; 0x28 is the first of them. -/
def Reg.offset : Reg → Nat
  | .ctrl => 0x00
  | .status => 0x04
  | .cmd => 0x08
  | .rxdata => 0x0C
  | .crc => 0x10
  | .sp0 => 0x14
  | .sp1 => 0x18
  | .sp2 => 0x1C
  | .temp => 0x20
  | .range => 0x24
  | .reserved => 0x28

/-- What an assembled line does: read a register, or write a value to it. -/
inductive AsmAccess where
  | read (r : Reg)
  | write (r : Reg) (v : Word)
deriving DecidableEq, Repr

/-- Four bytes as a register holds them, the first in bits 7:0 (R65, R102). -/
def packBytes (b0 b1 b2 b3 : Nat) : Word :=
  BitVec.ofNat 8 b3 ++ BitVec.ofNat 8 b2 ++ BitVec.ofNat 8 b1 ++ BitVec.ofNat 8 b0

/-- The expansion of a well-formed line (R100 table, R101, R102). -/
def AsmLine.expand : AsmLine → List AsmAccess
  | .reset => [.write .cmd 0x00000001]
  | .wbit v => [.write .cmd (0x00000002 ||| (BitVec.ofNat 32 v <<< 8))]
  | .rbit => [.write .cmd 0x00000003]
  | .wbyte b => [.write .cmd (0x00000004 ||| (BitVec.ofNat 32 b <<< 8))]
  | .rbyte => [.write .cmd 0x00000005]
  | .readsp => [.write .cmd 0x00000006]
  | .validate => [.write .cmd 0x00000007]
  | .wr r imm => [.write r (BitVec.ofNat 32 imm)]
  | .rd r => [.read r]
  | .skipRom => [.write .cmd (0x00000004 ||| (0xCC#32 <<< 8))]
  | .convertT => [.write .cmd (0x00000004 ||| (0x44#32 <<< 8))]
  | .readScratchCmd => [.write .cmd (0x00000004 ||| (0xBE#32 <<< 8))]
  | .clear => [.write .status 0x0000000E]
  | .softreset => [.write .ctrl 0x00000001]
  | .range lo hi => [.write .range (BitVec.ofInt 16 hi ++ BitVec.ofInt 16 lo)]
  | .loadsp bytes =>
    let b := fun k => bytes.getD k 0
    [.write .sp0 (packBytes (b 0) (b 1) (b 2) (b 3)),
     .write .sp1 (packBytes (b 4) (b 5) (b 6) (b 7)),
     .write .sp2 (BitVec.ofNat 32 (b 8))]

/-- The assembler: it rejects a line whose operands are out of range (R100). -/
def AsmLine.assemble (l : AsmLine) : Option (List AsmAccess) :=
  if l.wellFormed then some l.expand else none

end Sys2Proof
end

