-- ==== Sys2Proof/Config.lean ====
section
/-! DEFINITION. The named parameters of 00_scope.md R9, fixed for one machine and left open by the spec (`OPEN` in
92_eei_decisions.md), and the free values. Every constant here has no body that a proof could use, so a statement
that mentions one holds for each value the spec admits. -/

namespace Sys2Proof.Config

/-- `US_DIV` less one; any natural number (R9: `US_DIV` is an integer ≥ 1). -/
opaque usDivPred : Nat

/-- `US_DIV`: clock cycles in a 1 µs tick (R9, R111). -/
def usDiv : Nat := usDivPred + 1

/-- `CLK_HZ` = `US_DIV` × 1 000 000 (R9). -/
def clkHz : Nat := usDiv * 1000000

/-- `SYNC_CLKS`: stages of the synchronizer on the line input (R9, R115). -/
opaque syncClks : Nat

/-- `V_CYCLES` less one; any natural number (R9: `V_CYCLES` is an integer ≥ 1). -/
opaque vCyclesPred : Nat

/-- `V_CYCLES`: clock cycles from acceptance to completion of VALIDATE (R9, R170). -/
def vCycles : Nat := vCyclesPred + 1

/-- Which 64-byte block of the host's address space the register window is. -/
opaque owBlock : Nat

/-- `OW_BASE`: byte address of the register window, a multiple of 64 (R9, R61). -/
def owBase : Nat := 64 * owBlock

/-- `IRQ_LINE`: the interrupt-controller input that `irq` reaches (R9, R196). -/
opaque irqLine : Nat

/-- `PIN`: the pad the line is bonded to (R9). -/
opaque pin : Nat

/-- `PULLUP`: the external pull-up, its resistor value and its supply as numbers in units of the platform (R9, 92 D33).
No rule reads it ("None affects the register-level behaviour", 93 I18): a released line shows what the environment leaves
on it (R15). -/
opaque pullup : Nat × Nat

/-- `SUBWORD_ACCESS`: which of its choices the bus fabric takes for a non-32-bit or misaligned access (R9). The model
refuses every such access, whatever the choice is (R62, 92 D5). -/
opaque subwordAccess : Nat

/-- The bus environment's draws (R16) for the controller steps that no pending input supplies a draw for: a free
value, applied to the counter `State.draws`.  No law is placed on it (R16, 93 I2). -/
opaque freeDraw : Nat → Bool

end Sys2Proof.Config
end

