-- ==== Sys2Proof/Machine/State.lean ====
section
/-! DEFINITION. The state of OWC-T (10_state.md R20 to R43), the inputs its three agents give it (00_scope.md R14), and
the reasons a step can stop. All of it is plain data. -/

namespace Sys2Proof.Machine

/-- `cur_op` (R40): the command being run. -/
inductive Op where
  | idle | reset | writeBit | readBit | writeByte | readByte | readSp | validate
deriving DecidableEq, Repr

/-- STATUS.RESULT (R38). Codes 8 to 15 are never produced (93 I11), so they are no values of the type. -/
inductive ResultCode where
  | none | ok | crcMismatch | rawZero | rawPowerOn | rawOnes | belowRange | aboveRange
deriving DecidableEq, Repr

/-- One host access as the block's host port carries it (R22): `h_write`, `h_addr`, `h_size`, `h_wdata`. -/
structure Access where
  write : Bool
  addr : BitVec 6
  size : BitVec 2
  wdata : Word
deriving DecidableEq, Repr

/-- One host access as the host issues it (R12, R60): a byte address, a size in bytes, and the value of a write
(`none` for a read). -/
structure MemOp where
  addr : Nat
  bytes : Nat
  wdata : Option Word
deriving DecidableEq, Repr

/-- What the world outside the block does next (R14).  A list of these is the interleaving of host, controller and bus
environment that a run follows; R114, R198 and 93 I20 admit every one.  `access`, `mem` and `slot` are steps of the
untimed model (R114); `clock` and `clockAccess` are clock edges of the timed one (R111, R113); `rst` is `rst_n`. -/
inductive Input where
  /-- A host access (R60). `line` is the bus environment's draw, which only a STATUS read uses (R30). -/
  | access (a : Access) (line : Bool)
  /-- The same, by absolute address; it reaches the block only inside the window (R60, R61). -/
  | mem (m : MemOp) (line : Bool)
  /-- One controller step (R114), `d` its draw (R16). -/
  | slot (d : Bool)
  /-- One clock edge with no host access; `line` is the level the devices leave on the line (R15). -/
  | clock (line : Bool)
  /-- One clock edge with a host access on it (R198). -/
  | clockAccess (a : Access) (line : Bool)
  /-- `rst_n` takes a level (R220). -/
  | rst (level : Bool)
deriving DecidableEq, Repr

/-- The state.  Registers are fields as R63 assembles them; TEMP is a view with no storage (R36), CMD holds nothing
(R31), STATUS.LINE is not stored (R30) and `irq` is combinational (R196). -/
@[ext]
structure State where
  -- CTRL (R24)
  ieDone : Bool
  ieErr : Bool
  rangeEn : Bool
  -- STATUS (R25)
  busy : Bool
  done : Bool
  errCmd : Bool
  errBusy : Bool
  presence : Bool
  crcOk : Bool
  valid : Bool
  result : ResultCode
  -- RXDATA (R32), CRC (R34), the SP buffer (R35), RANGE (R33)
  rxdata : Byte
  crcCalc : Byte
  sp : Vector Byte 9
  rangeLo : Half
  rangeHi : Half
  -- hidden state (R40)
  curOp : Op
  curData : Byte
  rangeEnL : Bool
  slotIdx : Nat
  tUs : Nat
  pre : Nat
  sr : Byte
  presenceL : Bool
  vCnt : Nat
  /-- Synchronizer stages, the newest sample first. -/
  sync : List Bool
  dqOe : Bool
  /-- The ghost flag (R42). -/
  viol : Bool
  /-- The level of the input port `rst_n` (R22). -/
  rstN : Bool
  /-- What the output port `h_rdata` (R22) gave at the last host read. -/
  hRdata : Word
  /-- The model's own: the inputs still to come, the next one first. -/
  inputs : List Input
  /-- The model's own: how many draws `Config.freeDraw` has supplied. -/
  draws : Nat
deriving DecidableEq, Repr

/-- OWC-T has no fault that stops it: every abnormal condition is recorded in STATUS (R190, R195). -/
inductive Fault where
deriving DecidableEq, Repr

/-- Why a step has no successor. -/
inductive Refusal where
  /-- Raised by `exec` for an instruction with no meaning yet (safe). No arm raises it: all seven are modelled. -/
  | notModelled (mnemonic : String)
  /-- Raised by a host access that is no aligned 32-bit access (R62, 93 I5): "the model refuses it: the host agent has
  no step for it" (safe). -/
  | subwordAccess
deriving DecidableEq, Repr

/-- The outcomes of a step of this machine. -/
abbrev Outcome := Host.Outcome State Fault Refusal

/-- The machine right after reset (R23 to R25, R32 to R35, R40, R220, R221), `rst_n` released, nothing pending. -/
def State.reset : State where
  ieDone := false
  ieErr := false
  rangeEn := true
  busy := false
  done := false
  errCmd := false
  errBusy := false
  presence := false
  crcOk := false
  valid := false
  result := .none
  rxdata := 0x00
  crcCalc := 0x00
  sp := Vector.replicate 9 0x00
  rangeLo := 0x0050
  rangeHi := 0x0320
  curOp := .idle
  curData := 0x00
  rangeEnL := true
  slotIdx := 0
  tUs := 0
  pre := 0
  sr := 0x00
  presenceL := false
  vCnt := 0
  sync := List.replicate Config.syncClks true
  dqOe := false
  viol := false
  rstN := true
  hRdata := 0x00000000
  inputs := []
  draws := 0

end Sys2Proof.Machine
end

