-- ==== Sys2Proof/Machine/Operands.lean ====
section
/-! DEFINITION. What a command's operand selects: its slots and their timing (40_bus_primitives.md R112, R113, R119),
and which register an access selects (20_memory.md R60 to R62). -/

namespace Sys2Proof.Machine

/-- The slot kinds of R112. -/
inductive SlotKind where
  | rst | w1 | w0 | r
deriving DecidableEq, Repr

/-- LOW of R112, in µs: `dq_oe = 1` while fewer µs of the slot have elapsed. -/
def SlotKind.low : SlotKind → Nat
  | .rst => 480
  | .w1 => 6
  | .w0 => 60
  | .r => 6

/-- SAMPLE of R112, in µs from the start of the slot. -/
def SlotKind.sampleAt : SlotKind → Option Nat
  | .rst => some 550
  | .w1 => none
  | .w0 => none
  | .r => some 15

/-- TOTAL of R112, in µs. -/
def SlotKind.total : SlotKind → Nat
  | .rst => 960
  | .w1 => 70
  | .w0 => 70
  | .r => 70

/-- The write slot for a bit (R112, R125). -/
def writeSlot (b : Bool) : SlotKind := if b then .w1 else .w0

/-- `N(cur_op)` of R113: the slots of a bus command; none for VALIDATE. -/
def Op.slots : Op → Nat
  | .idle => 0
  | .reset => 1
  | .writeBit => 1
  | .readBit => 1
  | .writeByte => 8
  | .readByte => 8
  | .readSp => 72
  | .validate => 0

/-- `kind(cur_op, cur_data, k)` of R113; `none` where no slot runs (idle, VALIDATE). -/
def Op.slotKind (op : Op) (data : Byte) (k : Nat) : Option SlotKind :=
  match op with
  | .idle => none
  | .reset => some .rst
  | .writeBit => some (writeSlot (data.getLsbD 0))
  | .readBit => some .r
  | .writeByte => some (writeSlot (data.getLsbD k))
  | .readByte => some .r
  | .readSp => some .r
  | .validate => none

/-- The µs a bus command takes from acceptance to completion (R119): every slot of one command is equally long. -/
def Op.durationUs (op : Op) : Nat :=
  match op with
  | .reset => 960
  | .writeBit => 70
  | .readBit => 70
  | .writeByte => 560
  | .readByte => 560
  | .readSp => 5040
  | .idle => 0
  | .validate => 0

/-- The command a decoded word starts (R95: `cur_op <- opcode of c`). -/
def opOf : Instr → Op
  | .reset _ => .reset
  | .writeBit _ _ => .writeBit
  | .readBit _ => .readBit
  | .writeByte _ => .writeByte
  | .readByte _ => .readByte
  | .readSp _ => .readSp
  | .validate _ => .validate

/-- The slot kind the controller is in, if it is in a slot. -/
def State.kind (s : State) : Option SlotKind := s.curOp.slotKind s.curData s.slotIdx

/-- The current slot is in its low phase `[0, LOW)` (R112). -/
def State.lowPhase (s : State) : Bool :=
  match s.kind with
  | none => false
  | some k => s.tUs < k.low

/-- The current slot has a sample instant and it is still to come. -/
def State.samplePending (s : State) : Bool :=
  match s.kind with
  | none => false
  | some k =>
    match k.sampleAt with
    | none => false
    | some t => s.tUs < t

/-- The current slot's sample instant is now (R113: `t_us = SAMPLE(s)`). -/
def State.sampleNow (s : State) : Bool :=
  match s.kind with
  | none => false
  | some k => k.sampleAt == some s.tUs

/-- `sr[i] <- d`: one bit of a byte assigned. -/
def setBit (b : Byte) (i : Nat) (d : Bool) : Byte :=
  if d then b ||| BitVec.twoPow 8 i else b &&& ~~~ BitVec.twoPow 8 i

/-- The register that word index `off[5:2]` selects (R23, R60). -/
def regAt (addr : BitVec 6) : Reg :=
  match (addr.extractLsb' 2 4).toNat with
  | 0 => .ctrl
  | 1 => .status
  | 2 => .cmd
  | 3 => .rxdata
  | 4 => .crc
  | 5 => .sp0
  | 6 => .sp1
  | 7 => .sp2
  | 8 => .temp
  | 9 => .range
  | _ => .reserved

/-- The access is the one kind R62 defines: `h_size = 0b10` and `off[1:0] = 0`. -/
def Access.isDefined (a : Access) : Bool := a.size == 0b10#2 && a.addr.extractLsb' 0 2 == 0#2

/-- A 32-bit write of `v` at a register's offset. -/
def Access.writeOf (r : Reg) (v : Word) : Access := ⟨true, BitVec.ofNat 6 r.offset, 0b10#2, v⟩

/-- A 32-bit read at a register's offset. -/
def Access.readOf (r : Reg) : Access := ⟨false, BitVec.ofNat 6 r.offset, 0b10#2, 0#32⟩

/-- The host access an assembled line makes (R101). -/
def accessOf : AsmAccess → Access
  | .read r => Access.readOf r
  | .write r v => Access.writeOf r v

/-- `h_size` for an access of `n` bytes. R22 defines only the code of 4 bytes; the others are told apart only by not
being it, and all are refused (R62). -/
def sizeCode (n : Nat) : BitVec 2 :=
  match n with
  | 1 => 0b00
  | 2 => 0b01
  | 4 => 0b10
  | _ => 0b11

/-- Window selection (R60, R61): `off = addr - OW_BASE`, and the access reaches the block only if `0 ≤ off ≤ 0x3F`. -/
def MemOp.toAccess (m : MemOp) : Option Access :=
  if Config.owBase ≤ m.addr ∧ m.addr ≤ Config.owBase + 0x3F then
    some ⟨m.wdata.isSome, BitVec.ofNat 6 (m.addr - Config.owBase), sizeCode m.bytes, m.wdata.getD 0#32⟩
  else none

/-- The access performs the soft reset (R24, R222). -/
def Access.isSoftReset (a : Access) : Bool := a.write && regAt a.addr == .ctrl && a.wdata.getLsbD 0

/-- The write puts a 1 in a reserved bit of CMD, CTRL, STATUS or SP2 (R64, R97, R230 b). -/
def reservedSet (r : Reg) (v : Word) : Bool :=
  match r with
  | .ctrl => v.extractLsb' 4 28 != 0
  | .status => v.extractLsb' 12 20 != 0
  | .cmd => cmdReservedSet v
  | .sp2 => v.extractLsb' 8 24 != 0
  | .rxdata => false
  | .crc => false
  | .sp0 => false
  | .sp1 => false
  | .temp => false
  | .range => false
  | .reserved => false

end Sys2Proof.Machine
end

