-- ==== Sys2Proof/Machine/Flags.lean ====
section
/-! DEFINITION. What the status flags are computed from: CRC-8 and the verdict of VALIDATE
(42_scratchpad_validator.md R160 to R171), the RESULT codes (R38), the live line level (R15, R30), the STATUS word (R63)
and `irq` (R196). -/

namespace Sys2Proof.Machine

/-- One bit step of R160 on the pair (`c`, `x`). -/
def crcBit (p : Byte × Byte) : Byte × Byte :=
  let mix := p.1.getLsbD 0 ^^ p.2.getLsbD 0
  let c := p.1 >>> 1
  (if mix then c ^^^ 0x8C#8 else c, p.2 >>> 1)

/-- One byte of R160: eight bit steps, the least significant bit of `x` first. -/
def crcByte (c x : Byte) : Byte :=
  (crcBit (crcBit (crcBit (crcBit (crcBit (crcBit (crcBit (crcBit (c, x))))))))).1

/-- `crc8` of R160, with the initial value 0x00 and no final inversion (R161). -/
def crc8 (bytes : List Byte) : Byte := bytes.foldl crcByte 0x00#8

/-- SP[0] to SP[7], in that order (R160, R164). -/
def State.crcBytes (s : State) : List Byte :=
  [s.sp[0], s.sp[1], s.sp[2], s.sp[3], s.sp[4], s.sp[5], s.sp[6], s.sp[7]]

/-- `crc_calc` of R164. -/
def State.crcNow (s : State) : Byte := crc8 s.crcBytes

/-- `raw = {SP[1], SP[0]}` (R166). -/
def State.raw (s : State) : Half := s.sp[1] ++ s.sp[0]

/-- TEMP (R36): the raw value sign-extended. -/
def State.temp (s : State) : Word := s.raw.signExtend 32

/-- The checks of R170 in the order of R171. -/
def verdict (c expected : Byte) (raw : Half) (rangeOn : Bool) (lo hi : Half) : ResultCode :=
  if c ≠ expected then .crcMismatch
  else if raw = 0x0000#16 then .rawZero
  else if raw = 0x0550#16 then .rawPowerOn
  else if raw = 0xFFFF#16 then .rawOnes
  else if rangeOn ∧ raw.toInt < lo.toInt then .belowRange
  else if rangeOn ∧ raw.toInt > hi.toInt then .aboveRange
  else .ok

/-- The result VALIDATE gives in a state (R170, with `range_en_l`, R168). -/
def State.verdict (s : State) : ResultCode :=
  Machine.verdict s.crcNow s.sp[8] s.raw s.rangeEnL s.rangeLo s.rangeHi

/-- The codes of R38. -/
def ResultCode.code : ResultCode → BitVec 4
  | .none => 0
  | .ok => 1
  | .crcMismatch => 2
  | .rawZero => 3
  | .rawPowerOn => 4
  | .rawOnes => 5
  | .belowRange => 6
  | .aboveRange => 7

/-- The line level (R15): 0 if the block drives low or a device does (`line = false`), else 1. -/
def State.dqIn (s : State) (line : Bool) : Bool := line && !s.dqOe

/-- The level the synchronizer shows: `dq_in` as it was `SYNC_CLKS` clock cycles ago (R30, R115). -/
def State.syncedLine (s : State) (line : Bool) : Bool :=
  (s.dqIn line :: s.sync).getLast (List.cons_ne_nil _ _)

/-- Clock cycles since the current slot began: its whole µs ticks and the prescaler (R111). -/
def State.slotClks (s : State) : Nat := Config.usDiv * s.tUs + s.pre

/-- Clocked time has passed in the current slot, and `dq_oe = 1` has been held for at least `SYNC_CLKS` cycles of it
(R30). -/
def State.heldLow (s : State) : Bool := s.dqOe && 0 < s.slotClks && Config.syncClks ≤ s.slotClks

/-- What a STATUS read of the untimed model shows in LINE (R30): a draw, but 0 while the line is held low.  The untimed
model does not say when inside a slot an access falls (R114), so at a slot boundary every draw stands (D34). -/
def State.drawnLine (s : State) (line : Bool) : Bool := line && !s.heldLow

/-- The STATUS word (R25, R63), with the level LINE shows. -/
def State.statusWord (s : State) (line : Bool) : Word :=
  (0#20 ++ s.result.code ++ BitVec.ofBool line ++ BitVec.ofBool s.valid ++ BitVec.ofBool s.crcOk
    ++ BitVec.ofBool s.presence ++ BitVec.ofBool s.errBusy ++ BitVec.ofBool s.errCmd
    ++ BitVec.ofBool s.done ++ BitVec.ofBool s.busy : BitVec 32)

/-- The interrupt output (R196). While `rst_n = 0` it is 0, since every register is at its reset value (R220). -/
def State.irq (s : State) : Bool := (s.done && s.ieDone) || ((s.errCmd || s.errBusy) && s.ieErr)

/-- The level on input `n` of the host's interrupt controller that this block contributes (R9, R196). -/
def State.irqInput (s : State) (n : Nat) : Bool := n == Config.irqLine && s.irq

/-- Whether the block pulls pad `p` to 0 (R9, R22, R110). -/
def State.padLow (s : State) (p : Nat) : Bool := p == Config.pin && s.dqOe

end Sys2Proof.Machine
end

