-- ==== Sys2Proof/Machine/Ops.lean ====
section
/-! DEFINITION. The operations the commands and the host port share: raising an error (60_exceptions.md R191, all that
OWC-T has of taking an exception, R190, R199) and clearing it (R200), acceptance (30_encoding.md R95), completion
(40_bus_primitives.md R116), reset (70_reset_and_hazards.md R220, R222), and reading a register (20_memory.md R63). -/

namespace Sys2Proof.Machine

/-- `raise ERR_CMD()` (R191). -/
def State.raiseErrCmd (s : State) : State := { s with errCmd := true }

/-- `raise ERR_BUSY()` (R191). -/
def State.raiseErrBusy (s : State) : State := { s with errBusy := true }

/-- The write-1-to-clear of STATUS (R25, R64), OWC-T's only counterpart of a return from an exception (R200). -/
def State.clearSticky (v : Word) (s : State) : State :=
  { s with
    done := s.done && !v.getLsbD 1
    errCmd := s.errCmd && !v.getLsbD 2
    errBusy := s.errBusy && !v.getLsbD 3 }

/-- `STATUS.RESULT <- 0; STATUS.VALID <- 0; STATUS.CRC_OK <- 0` (R29, R64, R95). -/
def State.clearVerdict (s : State) : State := { s with result := .none, valid := false, crcOk := false }

/-- `dq_oe <- (t_us < LOW(s))` (R113); 0 where no slot runs (R110). -/
def State.drive (s : State) : State := { s with dqOe := s.lowPhase }

/-- Acceptance (R95), for every command alike. The first slot starts in the same cycle. -/
def State.accept (op : Op) (data : Byte) (s : State) : State :=
  State.drive
    { s with
      curOp := op
      curData := data
      rangeEnL := s.rangeEn
      slotIdx := 0
      tUs := 0
      pre := 0
      vCnt := 0
      sr := 0x00#8
      busy := true
      done := false }

/-- A request for a legal command (R95): BUSY is checked first. -/
def State.request (op : Op) (data : Byte) (s : State) : State :=
  if s.busy then s.raiseErrBusy else s.accept op data

/-- The end of `complete(op)`, for every command alike (R116). The commands' results come before it. -/
def State.finish (s : State) : State :=
  { s with dqOe := false, curOp := .idle, slotIdx := 0, tUs := 0, busy := false, done := true }

/-- `SP[j] <- b` (R35). -/
def State.setSp (j : Nat) (b : Byte) (s : State) : State := { s with sp := s.sp.setIfInBounds j b }

/-- Every register and hidden element at its reset value (R220). What is no part of the block stays: the ghost flag
(R42), the level of `rst_n`, the read-data record, and the model's own inputs and draw counter. -/
def State.resetBlock (s : State) : State :=
  { State.reset with viol := s.viol, rstN := s.rstN, hRdata := s.hRdata, inputs := s.inputs, draws := s.draws }

/-- `rst_n` takes a level (R220). While it is 0 the block is held at its reset values. -/
def State.setRstN (level : Bool) (s : State) : State :=
  if level then { s with rstN := true } else { s.resetBlock with rstN := false }

/-- A register read (R63); `line` is the level STATUS.LINE shows. -/
def State.readReg (s : State) (r : Reg) (line : Bool) : Word :=
  match r with
  | .ctrl => (0#28 ++ BitVec.ofBool s.rangeEn ++ BitVec.ofBool s.ieErr ++ BitVec.ofBool s.ieDone ++ 0#1 : BitVec 32)
  | .status => s.statusWord line
  | .cmd => 0#32
  | .rxdata => s.rxdata.setWidth 32
  | .crc => s.crcCalc.setWidth 32
  | .sp0 => (s.sp[3] ++ s.sp[2] ++ s.sp[1] ++ s.sp[0] : BitVec 32)
  | .sp1 => (s.sp[7] ++ s.sp[6] ++ s.sp[5] ++ s.sp[4] : BitVec 32)
  | .sp2 => s.sp[8].setWidth 32
  | .temp => s.temp
  | .range => (s.rangeHi ++ s.rangeLo : BitVec 32)
  | .reserved => 0#32

/-- A write to CTRL (R24, R64). -/
def State.writeCtrl (v : Word) (s : State) : State :=
  if v.getLsbD 0 then s.resetBlock
  else { s with ieDone := v.getLsbD 1, ieErr := v.getLsbD 2, rangeEn := v.getLsbD 3 }

/-- A write to SP0, SP1, SP2 or RANGE (R64): discarded with ERR_BUSY while BUSY = 1 (R193). -/
def State.whenIdle (s : State) (f : State → State) : State :=
  if s.busy then s.raiseErrBusy else f s

/-- An accepted write to SP0 (R64). -/
def State.writeSp0 (v : Word) (s : State) : State :=
  ((((s.setSp 0 (v.extractLsb' 0 8)).setSp 1 (v.extractLsb' 8 8)).setSp 2 (v.extractLsb' 16 8)).setSp 3
    (v.extractLsb' 24 8)).clearVerdict

/-- An accepted write to SP1 (R64). -/
def State.writeSp1 (v : Word) (s : State) : State :=
  ((((s.setSp 4 (v.extractLsb' 0 8)).setSp 5 (v.extractLsb' 8 8)).setSp 6 (v.extractLsb' 16 8)).setSp 7
    (v.extractLsb' 24 8)).clearVerdict

/-- An accepted write to SP2 (R64). -/
def State.writeSp2 (v : Word) (s : State) : State := (s.setSp 8 (v.extractLsb' 0 8)).clearVerdict

/-- An accepted write to RANGE (R33, R64); it does not touch the verdict. -/
def State.writeRange (v : Word) (s : State) : State :=
  { s with rangeLo := v.extractLsb' 0 16, rangeHi := v.extractLsb' 16 16 }

/-- The ghost flag on a write with a reserved bit set (R97, R230 b). -/
def State.noteReserved (r : Reg) (v : Word) (s : State) : State :=
  { s with viol := s.viol || reservedSet r v }

/-- The next pending input is taken. -/
def State.consume (s : State) : State := { s with inputs := s.inputs.tail }

end Sys2Proof.Machine
end

