-- ==== Sys2Proof/Machine/Bus.lean ====
section
/-! DEFINITION. RESET, WRITE_BIT and READ_BIT (40_bus_primitives.md R120, R125, R130). For each command: `exec…` is the
command request (30_encoding.md R95), `capture…` what its sample does (R113), `complete…` its completion (R116). A command
with no sample or no result has no `capture…`. -/

namespace Sys2Proof.Machine

/-- RESET is requested (R95, R120). -/
def execReset (ign : Byte) (s : State) : Outcome := .next (s.request .reset ign)

/-- The presence sample (R120): `presence_l <- (d = 0)`. -/
def captureReset (d : Bool) (s : State) : State := { s with presenceL := !d }

/-- RESET completes (R116): `STATUS.PRESENCE <- presence_l`. -/
def completeReset (s : State) : State := State.finish { s with presence := s.presenceL }

/-- WRITE_BIT is requested (R95, R125); `cur_data[0]` is the bit (R126). -/
def execWriteBit (v : Bool) (ign : BitVec 7) (s : State) : Outcome :=
  .next (s.request .writeBit (ign ++ BitVec.ofBool v))

/-- WRITE_BIT completes: no result (R116). -/
def completeWriteBit (s : State) : State := s.finish

/-- READ_BIT is requested (R95, R130). -/
def execReadBit (ign : Byte) (s : State) : Outcome := .next (s.request .readBit ign)

/-- The read sample (R130): `sr[0] <- d`. -/
def captureReadBit (d : Bool) (s : State) : State := { s with sr := setBit s.sr 0 d }

/-- READ_BIT completes (R116): `RXDATA <- zext_8(sr[0])`. -/
def completeReadBit (s : State) : State :=
  State.finish { s with rxdata := (BitVec.ofBool (s.sr.getLsbD 0)).setWidth 8 }

end Sys2Proof.Machine
end

