-- ==== Sys2Proof/Machine/Serializer.lean ====
section
/-! DEFINITION. WRITE_BYTE, READ_BYTE and READ_SP (41_byte_serializer.md R140, R145, R150), laid out as in Bus.lean. -/

namespace Sys2Proof.Machine

/-- WRITE_BYTE is requested (R95, R140). -/
def execWriteByte (b : Byte) (s : State) : Outcome := .next (s.request .writeByte b)

/-- WRITE_BYTE completes: no result (R116). -/
def completeWriteByte (s : State) : State := s.finish

/-- READ_BYTE is requested (R95, R145). -/
def execReadByte (ign : Byte) (s : State) : Outcome := .next (s.request .readByte ign)

/-- The sample of slot `k` (R145): `sr[k] <- d_k`. -/
def captureReadByte (d : Bool) (s : State) : State := { s with sr := setBit s.sr s.slotIdx d }

/-- READ_BYTE completes (R116): `RXDATA <- sr`. -/
def completeReadByte (s : State) : State := State.finish { s with rxdata := s.sr }

/-- READ_SP is requested (R95, R150): acceptance also clears RESULT, VALID and CRC_OK. -/
def execReadSp (ign : Byte) (s : State) : Outcome :=
  .next (if s.busy then s.raiseErrBusy else (s.accept .readSp ign).clearVerdict)

/-- The sample of slot `k = 8j + i` (R150): `sr[i] <- d`, and with the last bit of a byte `SP[j] <- sr; sr <- 0`. -/
def captureReadSp (d : Bool) (s : State) : State :=
  let sr := setBit s.sr (s.slotIdx % 8) d
  if s.slotIdx % 8 = 7 then { s.setSp (s.slotIdx / 8) sr with sr := 0x00#8 } else { s with sr := sr }

/-- READ_SP completes (R116): `RXDATA <- SP[8]`. -/
def completeReadSp (s : State) : State := State.finish { s with rxdata := s.sp[8] }

end Sys2Proof.Machine
end

