-- ==== Sys2Proof/Machine/Validator.lean ====
section
/-! DEFINITION. VALIDATE (42_scratchpad_validator.md R170), laid out as in Bus.lean; it takes no sample. -/

namespace Sys2Proof.Machine

/-- VALIDATE is requested (R95, R170). -/
def execValidate (ign : Byte) (s : State) : Outcome := .next (s.request .validate ign)

/-- VALIDATE completes (R116, R170). The cycle counter has run out, and it wraps. -/
def completeValidate (s : State) : State :=
  State.finish
    { s with
      crcCalc := s.crcNow
      crcOk := s.crcNow == s.sp[8]
      result := s.verdict
      valid := s.verdict == .ok
      vCnt := 0 }

end Sys2Proof.Machine
end

