-- ==== Sys2Proof/Machine/Controller.lean ====
section
/-! DEFINITION. The controller (00_scope.md R14): the slot-level step of the untimed model (40_bus_primitives.md R114) and
the clocked engine of the timed one (R111, R113, R115). -/

namespace Sys2Proof.Machine

/-- `capture(cur_op, slot_idx, d)` (R113). -/
def State.capture (d : Bool) (s : State) : State :=
  match s.curOp with
  | .idle => s
  | .reset => captureReset d s
  | .writeBit => s
  | .readBit => captureReadBit d s
  | .writeByte => s
  | .readByte => captureReadByte d s
  | .readSp => captureReadSp d s
  | .validate => s

/-- `complete(cur_op)` (R116). -/
def State.complete (s : State) : State :=
  match s.curOp with
  | .idle => s
  | .reset => completeReset s
  | .writeBit => completeWriteBit s
  | .readBit => completeReadBit s
  | .writeByte => completeWriteByte s
  | .readByte => completeReadByte s
  | .readSp => completeReadSp s
  | .validate => completeValidate s

/-- `slot_idx <- slot_idx + 1; t_us <- 0` (R113). -/
def State.nextSlot (s : State) : State := { s with slotIdx := s.slotIdx + 1, tUs := 0 }

/-- `t_us <- t_us + 1` (R113). -/
def State.nextUs (s : State) : State := { s with tUs := s.tUs + 1 }

/-- The prescaler takes a value (R111). -/
def State.setPre (n : Nat) (s : State) : State := { s with pre := n }

/-- VALIDATE's cycle counter takes a value (R40). -/
def State.setVCnt (n : Nat) (s : State) : State := { s with vCnt := n }

/-- The end of a slot (R113): the next slot starts with no gap, or the command completes. -/
def State.endSlot (s : State) : State :=
  if s.slotIdx + 1 = s.curOp.slots then s.nextSlot.complete else s.nextSlot.drive

/-- The slot's sample, if it is still to come. -/
def State.takeSample (d : Bool) (s : State) : State := if s.samplePending then s.capture d else s

/-- One controller step of the untimed model (R114): the rest of the current slot with its draw, or all of VALIDATE.
At a slot's start the whole slot is the rest; a sample that a clocked part of the slot has taken is not taken again. -/
def State.slotStep (d : Bool) (s : State) : State :=
  match s.kind with
  | some _ => ((s.takeSample d).setPre 0).endSlot
  | none => s.complete

/-- Controller steps one after another, each with its draw. -/
def State.slotSteps (ds : List Bool) (s : State) : State := ds.foldl (fun s d => s.slotStep d) s

/-- One more of the free draws is used up. -/
def State.countDraw (s : State) : State := { s with draws := s.draws + 1 }

/-- The controller's step where no pending input supplies the draw: a free one (R16). -/
def State.controllerAlone (s : State) : State :=
  if s.curOp = .idle then s else s.countDraw.slotStep (Config.freeDraw s.draws)

/-- One µs tick of the engine (R113), `d` the synchronized line level at this instant.  It closes the µs that has
elapsed (`t_us` advances, the slot may end) and opens the next: `dq_oe` is driven for it and its sample, if it has one,
is taken, so that `t_us` counts µs from the acceptance edge as R112 and R120 do. -/
def State.tick (d : Bool) (s : State) : State :=
  match s.kind with
  | none => s
  | some k =>
    if s.tUs + 1 = k.total then s.endSlot
    else if s.nextUs.sampleNow then s.nextUs.drive.capture d else s.nextUs.drive

/-- One clock cycle of the controller: the prescaler and its tick (R111), or VALIDATE's counter (R170, R40).  That the
prescaler stands at 0 while VALIDATE runs is a DESIGN CHOICE (log entry 11): R111 stops it while idle, and the spec does
not say whether it counts in VALIDATE, which has no slots. -/
def State.cycle (d : Bool) (s : State) : State :=
  match s.curOp with
  | .idle => s
  | .validate => if s.vCnt + 1 = Config.vCycles then s.complete else s.setVCnt (s.vCnt + 1)
  | .reset | .writeBit | .readBit | .writeByte | .readByte | .readSp =>
    if s.pre + 1 = Config.usDiv then (s.setPre 0).tick d else s.setPre (s.pre + 1)

/-- The synchronizer takes in one sample of the line (R40, R115). -/
def State.shiftSync (b : Bool) (s : State) : State := { s with sync := (b :: s.sync).dropLast }

/-- One clock edge with no host access; `line` is the level the devices leave on the line.  Nothing moves while
`rst_n = 0` (R220). -/
def State.clockEdge (line : Bool) (s : State) : State :=
  if s.rstN then State.cycle (s.syncedLine line) (s.shiftSync (s.dqIn line)) else s

/-- Clock edges one after another, each with the level the devices leave on the line. -/
def State.clockEdges (lines : List Bool) (s : State) : State := lines.foldl (fun s l => s.clockEdge l) s

end Sys2Proof.Machine
end

