-- ==== Sys2Proof/Machine/Dispatch.lean ====
section
/-! DEFINITION. One arm per command: what a CMD write that decodes to it does (30_encoding.md R95). -/

namespace Sys2Proof.Machine

def exec (i : Instr) (s : State) : Host.Outcome State Fault Refusal :=
  match i with
  | .reset ign => Sys2Proof.Machine.execReset ign s
  | .writeBit v ign => Sys2Proof.Machine.execWriteBit v ign s
  | .readBit ign => Sys2Proof.Machine.execReadBit ign s
  | .writeByte b => Sys2Proof.Machine.execWriteByte b s
  | .readByte ign => Sys2Proof.Machine.execReadByte ign s
  | .readSp ign => Sys2Proof.Machine.execReadSp ign s
  | .validate ign => Sys2Proof.Machine.execValidate ign s

end Sys2Proof.Machine
end

