-- ==== Sys2Proof/Machine/HostPort.lean ====
section
/-! DEFINITION. The host port (20_memory.md R60 to R64, 30_encoding.md R95), a host access and a clock edge together
(60_exceptions.md R198), and what each kind of input does. -/

namespace Sys2Proof.Machine

/-- `command_request(v)` (R95), after the ghost flag: BUSY first, the opcode second (R197 a). -/
def commandRequest (v : Word) (s : State) : Outcome :=
  if s.busy then .next s.raiseErrBusy
  else
    match decode v with
    | .error _ => .next s.raiseErrCmd
    | .ok i => exec i s

/-- `MemWrite(OW_BASE + off, 4, v)` on the register selected (R64). -/
def writeReg (r : Reg) (v : Word) (s : State) : Outcome :=
  match r with
  | .ctrl => .next (s.writeCtrl v)
  | .status => .next (s.clearSticky v)
  | .cmd => commandRequest v s
  | .rxdata => .next s
  | .crc => .next s
  | .sp0 => .next (s.whenIdle (State.writeSp0 v))
  | .sp1 => .next (s.whenIdle (State.writeSp1 v))
  | .sp2 => .next (s.whenIdle (State.writeSp2 v))
  | .temp => .next s
  | .range => .next (s.whenIdle (State.writeRange v))
  | .reserved => .next s

/-- A defined host access; `line` is the level a STATUS read shows.  While `rst_n = 0` it is ignored, and a read
returns 0 (R220). -/
def portAccess (a : Access) (line : Bool) (s : State) : Outcome :=
  if a.write then
    let s := s.noteReserved (regAt a.addr) a.wdata
    if s.rstN then writeReg (regAt a.addr) a.wdata s else .next s
  else .next { s with hRdata := if s.rstN then s.readReg (regAt a.addr) line else 0#32 }

/-- A clock edge with a host access on it (R198).  The access sees the state before the edge; a command that was
running moves on after it, so a sticky bit it sets stays set (R27).  A soft reset dominates, and a command accepted on
this edge starts with it and does not move yet (R95, R111). -/
def clockAccess (a : Access) (line : Bool) (s : State) : Outcome :=
  match portAccess a (s.syncedLine line) s with
  | .next t =>
    if !s.rstN || a.isSoftReset then .next t
    else if s.curOp = .idle then .next (t.shiftSync (s.dqIn line))
    else .next (State.cycle (s.syncedLine line) (t.shiftSync (s.dqIn line)))
  | .fault f => .fault f
  | .refused r => .refused r

/-- R62 and R230 (a): an access that is not an aligned 32-bit one sets `viol` and has no step.  Both are kept: the step
that meets it first sets `viol` and leaves it pending, and with `viol` set the machine refuses it. -/
def guardAccess (a : Access) (perform : State → Outcome) (s : State) : Outcome :=
  if a.isDefined then perform s.consume
  else if s.viol then .refused .subwordAccess
  else .next { s with viol := true }

/-- What the next pending input does; it is still at the head of `s.inputs`. -/
def deliver (i : Input) (s : State) : Outcome :=
  match i with
  | .access a line => guardAccess a (portAccess a (s.drawnLine line)) s
  | .mem m line =>
    match m.toAccess with
    | none => .next s.consume
    | some a => guardAccess a (portAccess a (s.drawnLine line)) s
  | .slot d => .next (s.consume.slotStep d)
  | .clock line => .next (s.consume.clockEdge line)
  | .clockAccess a line => guardAccess a (clockAccess a line) s
  | .rst level => .next (s.consume.setRstN level)

/-- The CMD write of the word `w` of `nbits` bits, the input a command is taken from (R77, R90). -/
def cmdWrite (nbits w : Nat) : Input := .access (Access.writeOf .cmd (BitVec.ofNat 32 (w % 2 ^ nbits))) true

end Sys2Proof.Machine
end

