-- ==== Sys2Proof/Machine/Step.lean ====
section
/-! DEFINITION. One step of the machine: the next pending input takes effect; with none pending, only the controller has
a step, and it takes it (70_reset_and_hazards.md R236); with none pending and the controller idle, nothing changes. -/

namespace Sys2Proof.Machine

/-- One step (R14, R60, R114, R236). -/
def step (s : State) : Host.Outcome State Fault Refusal :=
  match s.inputs with
  | [] => .next s.controllerAlone
  | i :: _ => deliver i s

/-- The state whose next step is the host's write of the word `w` to CMD (R90, R95), `rst_n` released. -/
def State.withFetchWord (s : State) (nbits w : Nat) : State :=
  { s with inputs := cmdWrite nbits w :: s.inputs, rstN := true }

end Sys2Proof.Machine
end

