-- ==== Sys2Proof/Safety.lean ====
section
/-! DEFINITION. The terms statements use: the invariant of 10_state.md R41 with the ranges of R40, what a host can read
(R63), and which inputs are host protocol violations (R230). -/

namespace Sys2Proof.Machine

/-- The block is at its reset values (R220), whatever the ghost flag, the ports and the pending inputs are. -/
def State.AtReset (s : State) : Prop := s.resetBlock = s

/-- The invariant of R41, with the ranges of R40 and what R30, R111 and R220 add. -/
structure Inv (s : State) : Prop where
  /-- R41 (a). -/
  busy_iff : s.busy = true ↔ s.curOp ≠ .idle
  /-- R41 (b), and its converse (R112). -/
  drive_eq : s.dqOe = s.lowPhase
  /-- R41 (c). -/
  valid_iff : s.valid = true ↔ s.result = .ok
  /-- R41 (d). -/
  crc_ok : s.crcOk = true → s.result ≠ .none ∧ s.result ≠ .crcMismatch
  /-- `slot_idx` stays below `N(cur_op)`, and is 0 where no slot runs. -/
  slot_lt : s.kind ≠ none → s.slotIdx < s.curOp.slots
  slot_zero : s.kind = none → s.slotIdx = 0
  /-- `t_us` stays below TOTAL of the current slot, and is 0 where no slot runs. -/
  time_lt : ∀ k, s.kind = some k → s.tUs < k.total
  time_zero : s.kind = none → s.tUs = 0
  /-- The prescaler stays below `US_DIV`, and does not run where no slot runs (in VALIDATE: log entry 11). -/
  pre_lt : s.pre < Config.usDiv
  pre_zero : s.kind = none → s.pre = 0
  /-- `v_cnt` stays below `V_CYCLES`, and runs in VALIDATE only. -/
  vcnt_lt : s.vCnt < Config.vCycles
  vcnt_zero : s.curOp ≠ .validate → s.vCnt = 0
  /-- The synchronizer has `SYNC_CLKS` stages (R40). -/
  sync_length : s.sync.length = Config.syncClks
  /-- While the block drives low, the stages filled since the slot began hold 0 (R15, R30). -/
  sync_low : s.dqOe = true → ∀ j, j < s.slotClks → j < Config.syncClks → s.sync[j]? = some false
  /-- While `rst_n = 0` the block is held at its reset values (R220). -/
  held_in_reset : s.rstN = false → s.AtReset

/-- The registers a command's completion publishes (R73), for STATUS the fields R74 names, hold the same in both
states. -/
def State.SameResults (s t : State) : Prop :=
  t.rxdata = s.rxdata ∧ t.presence = s.presence ∧ t.crcCalc = s.crcCalc ∧ t.crcOk = s.crcOk ∧ t.valid = s.valid ∧
    t.result = s.result

/-- Every register reads alike in both states (R63), whatever LINE shows. -/
def State.SameView (s t : State) : Prop := ∀ r line, t.readReg r line = s.readReg r line

/-- A host protocol violation (R230): an access that is not an aligned 32-bit one, or a write of 1 to a reserved bit. -/
def Access.violates (a : Access) : Bool := !a.isDefined || (a.write && reservedSet (regAt a.addr) a.wdata)

/-- The input carries a host protocol violation that reaches the block. -/
def Input.violates : Input → Bool
  | .access a _ => a.violates
  | .mem m _ =>
    match m.toAccess with
    | none => false
    | some a => a.violates
  | .slot _ => false
  | .clock _ => false
  | .clockAccess a _ => a.violates
  | .rst _ => false

/-- The access that reaches the block with an input, if one does. -/
def Input.access? : Input → Option Access
  | .access a _ => some a
  | .mem m _ => m.toAccess
  | .slot _ => none
  | .clock _ => none
  | .clockAccess a _ => some a
  | .rst _ => none

/-- The next pending input is a host access of the kind `p` that R62 defines. -/
def State.nextAccess (s : State) (p : Access → Prop) : Prop :=
  ∃ i rest a, s.inputs = i :: rest ∧ i.access? = some a ∧ a.isDefined = true ∧ p a

/-- The same command with the DATA bits it ignores cleared (R93). -/
def canonical : Instr → Instr
  | .reset _ => .reset 0
  | .writeBit v _ => .writeBit v 0
  | .readBit _ => .readBit 0
  | .writeByte b => .writeByte b
  | .readByte _ => .readByte 0
  | .readSp _ => .readSp 0
  | .validate _ => .validate 0

end Sys2Proof.Machine
end

