-- ==== Sys2Proof/Certificates/Slice0/Obligations.lean ====
section
/-! DEFINITION. The statements for the provers. A record update names every field that changes, so an equation between a
state and an update of another says that all the rest is unchanged. -/

open Sys2Proof Sys2Proof.Machine

/-- Encoding a command and decoding the word gives the command back, operands and ignored DATA bits alike, and the word
has no reserved bit set (R91 to R94). -/
def Obligations.DecodeOfEncode : Prop :=
  ∀ i : Instr, decode (encode i) = .ok i ∧ cmdReservedSet (encode i) = false

/-- A word that decodes is the encoding of what it decodes to, but for its reserved bits 7:4 and 31:16 (R91, R94). -/
def Obligations.EncodeOfDecode : Prop :=
  ∀ (v : Word) (i : Instr), decode v = .ok i → encode i = v &&& 0x0000FF0F#32

/-- A word is a command when its opcode is 1 to 7, and otherwise is rejected with its opcode (R94, R96). -/
def Obligations.IllegalOpcodesRejected : Prop :=
  ∀ v : Word,
    ((∃ i, decode v = .ok i) ↔ 1 ≤ (opField v).toNat ∧ (opField v).toNat ≤ 7) ∧
    (∀ e, decode v = .error e ↔
      e = .illegalOpcode (opField v) ∧ ((opField v).toNat = 0 ∨ 8 ≤ (opField v).toNat))

/-- Bits 7:4 and 31:16 take no part in decoding (R94). -/
def Obligations.ReservedBitsTakeNoPart : Prop :=
  ∀ v w : Word, v &&& 0x0000FF0F#32 = w &&& 0x0000FF0F#32 → decode v = decode w

/-- The encoding examples of R104. -/
def Obligations.EncodingExamples : Prop :=
  (AsmLine.wbyte 0xCC).assemble = some [.write .cmd 0x0000CC04#32] ∧
  (AsmLine.wbyte 0x44).assemble = some [.write .cmd 0x00004404#32] ∧
  (AsmLine.wbyte 0xBE).assemble = some [.write .cmd 0x0000BE04#32] ∧
  (AsmLine.wbit 1).assemble = some [.write .cmd 0x00000102#32] ∧
  (AsmLine.wbit 0).assemble = some [.write .cmd 0x00000002#32] ∧
  decode 0x00000000#32 = .error (.illegalOpcode 0) ∧
  decode 0x000000F1#32 = .ok (.reset 0x00) ∧ cmdReservedSet 0x000000F1#32 = true ∧
  decode 0x0000FF05#32 = .ok (.readByte 0xFF) ∧ cmdReservedSet 0x0000FF05#32 = false ∧
  decode 0x0000FE02#32 = .ok (.writeBit false 0x7F)

/-- The assembler writes the encoding of the command a line names, its ignored bits 0, and rejects an operand out of
range (R100). -/
def Obligations.AssemblerWritesEncodings : Prop :=
  AsmLine.reset.assemble = some [.write .cmd (encode (.reset 0))] ∧
  AsmLine.rbit.assemble = some [.write .cmd (encode (.readBit 0))] ∧
  AsmLine.rbyte.assemble = some [.write .cmd (encode (.readByte 0))] ∧
  AsmLine.readsp.assemble = some [.write .cmd (encode (.readSp 0))] ∧
  AsmLine.validate.assemble = some [.write .cmd (encode (.validate 0))] ∧
  (∀ v : Nat, (AsmLine.wbit v).assemble =
    if v = 0 then some [.write .cmd (encode (.writeBit false 0))]
    else if v = 1 then some [.write .cmd (encode (.writeBit true 0))] else none) ∧
  (∀ b : Nat, (AsmLine.wbyte b).assemble =
    if b ≤ 255 then some [.write .cmd (encode (.writeByte (BitVec.ofNat 8 b)))] else none)

/-- A host write to CMD of a word that decodes to a command runs that command, after the ghost flag has noted the
reserved bits (R95); so by address (R60), and on a clock edge, where the synchronizer also shifts while no command
runs (R198, R111; log entry 20). -/
def Obligations.StepRunsDecodedCommand : Prop :=
  ∀ (s : State) (v : Word) (line : Bool) (rest : List Input) (i : Instr), s.rstN = true → decode v = .ok i →
    (s.inputs = .access (Access.writeOf .cmd v) line :: rest →
      step s = exec i { s with inputs := rest, viol := s.viol || cmdReservedSet v }) ∧
    (s.inputs = .mem ⟨Config.owBase + 0x08, 4, some v⟩ line :: rest →
      step s = exec i { s with inputs := rest, viol := s.viol || cmdReservedSet v }) ∧
    (s.inputs = .clockAccess (Access.writeOf .cmd v) line :: rest → s.curOp = .idle →
      ∃ t, exec i { s with inputs := rest, viol := s.viol || cmdReservedSet v } = .next t ∧
        step s = .next { t with sync := (s.dqIn line :: t.sync).dropLast })

/-- The placed word is what the next step runs, `rst_n` released and its reserved bits noted. That a command is placed as
the next pending input is the model's form (log entry 1). -/
def Obligations.PlacedWordRuns : Prop :=
  ∀ (s : State) (w : Nat) (i : Instr), decodeTableWord 32 w = some i →
    step (s.withFetchWord 32 w) =
      exec i { s with rstN := true, viol := s.viol || cmdReservedSet (BitVec.ofNat 32 w) }

/-- What each input that is no host access does (R14, R114, R220). With none pending an idle machine stays as it is, and
a running controller takes a slot step with a free draw: that is the model's form of R236 (log entries 4 and 6). -/
def Obligations.StepTakesOtherInputs : Prop :=
  ∀ (s : State) (rest : List Input),
    (∀ d, s.inputs = .slot d :: rest → step s = .next (State.slotStep d { s with inputs := rest })) ∧
    (∀ l, s.inputs = .clock l :: rest → step s = .next (State.clockEdge l { s with inputs := rest })) ∧
    (∀ l, s.inputs = .rst l :: rest → step s = .next (State.setRstN l { s with inputs := rest })) ∧
    (s.inputs = [] → s.curOp = .idle → step s = .next s) ∧
    (s.inputs = [] → s.curOp ≠ .idle →
      step s = .next (State.slotStep (Config.freeDraw s.draws) { s with draws := s.draws + 1 }))

/-- RESET (R120): accepted while idle, it runs one reset slot, and its one sample `d` becomes PRESENCE = NOT `d`; only
the fields named change. -/
def Obligations.ResetHandshake : Prop :=
  ∀ (s : State) (ign : Byte), s.busy = false →
    ∃ t, exec (.reset ign) s = .next t ∧
      t = { s with
        curOp := .reset, curData := ign, rangeEnL := s.rangeEn, slotIdx := 0, tUs := 0, pre := 0, vCnt := 0, sr := 0,
        dqOe := true, busy := true, done := false } ∧
      t.kind = some .rst ∧
      ∀ d, t.slotStep d = { s with
        curOp := .idle, curData := ign, rangeEnL := s.rangeEn, slotIdx := 0, tUs := 0, pre := 0, vCnt := 0, sr := 0,
        dqOe := false, busy := false, done := true, presenceL := !d, presence := !d }

/-- WRITE_BIT (R125): one write-1 slot if `v = 1`, else one write-0 slot; no sample is taken, so the draw changes
nothing, and there is no result. -/
def Obligations.WriteBitSendsOneSlot : Prop :=
  ∀ (s : State) (v : Bool) (ign : BitVec 7), s.busy = false →
    ∃ t, exec (.writeBit v ign) s = .next t ∧
      t = { s with
        curOp := .writeBit, curData := ign ++ BitVec.ofBool v, rangeEnL := s.rangeEn, slotIdx := 0, tUs := 0, pre := 0,
        vCnt := 0, sr := 0, dqOe := true, busy := true, done := false } ∧
      t.kind = some (if v then .w1 else .w0) ∧
      ∀ d, t.slotStep d = { s with
        curOp := .idle, curData := ign ++ BitVec.ofBool v, rangeEnL := s.rangeEn, slotIdx := 0, tUs := 0, pre := 0,
        vCnt := 0, sr := 0, dqOe := false, busy := false, done := true }

/-- READ_BIT (R130): one read slot; RXDATA becomes the sample, zero-extended. -/
def Obligations.ReadBitReturnsSample : Prop :=
  ∀ (s : State) (ign : Byte), s.busy = false →
    ∃ t, exec (.readBit ign) s = .next t ∧
      t = { s with
        curOp := .readBit, curData := ign, rangeEnL := s.rangeEn, slotIdx := 0, tUs := 0, pre := 0, vCnt := 0, sr := 0,
        dqOe := true, busy := true, done := false } ∧
      t.kind = some .r ∧
      ∀ d, t.slotStep d = { s with
        curOp := .idle, curData := ign, rangeEnL := s.rangeEn, slotIdx := 0, tUs := 0, pre := 0, vCnt := 0,
        sr := if d then 1 else 0, rxdata := if d then 1 else 0, dqOe := false, busy := false, done := true }

/-- WRITE_BYTE (R140): eight write slots, slot `k` for bit `k` of `b`, the least significant first; no sample, no
result. -/
def Obligations.WriteByteSendsEightSlots : Prop :=
  ∀ (s : State) (b : Byte), s.busy = false →
    ∃ t, exec (.writeByte b) s = .next t ∧
      t = { s with
        curOp := .writeByte, curData := b, rangeEnL := s.rangeEn, slotIdx := 0, tUs := 0, pre := 0, vCnt := 0, sr := 0,
        dqOe := true, busy := true, done := false } ∧
      (∀ ds : List Bool, ds.length < 8 →
        t.slotSteps ds = { t with slotIdx := ds.length } ∧
        (t.slotSteps ds).kind = some (if b.getLsbD ds.length then .w1 else .w0)) ∧
      (∀ ds : List Bool, ds.length = 8 →
        t.slotSteps ds = { s with
          curOp := .idle, curData := b, rangeEnL := s.rangeEn, slotIdx := 0, tUs := 0, pre := 0, vCnt := 0, sr := 0,
          dqOe := false, busy := false, done := true })

/-- READ_BYTE (R145): eight read slots; bit `k` of RXDATA is the `k`-th sample; RXDATA changes at completion only. -/
def Obligations.ReadByteAssemblesSamples : Prop :=
  ∀ (s : State) (ign : Byte), s.busy = false →
    ∃ t, exec (.readByte ign) s = .next t ∧
      t = { s with
        curOp := .readByte, curData := ign, rangeEnL := s.rangeEn, slotIdx := 0, tUs := 0, pre := 0, vCnt := 0, sr := 0,
        dqOe := true, busy := true, done := false } ∧
      (∀ ds : List Bool, ds.length < 8 →
        t.slotSteps ds = { t with slotIdx := ds.length, sr := (t.slotSteps ds).sr } ∧
        (t.slotSteps ds).kind = some .r) ∧
      (∀ ds : List Bool, ds.length = 8 →
        ∃ r : Byte, (∀ k, k < 8 → r.getLsbD k = ds.getD k false) ∧
          t.slotSteps ds = { s with
            curOp := .idle, curData := ign, rangeEnL := s.rangeEn, slotIdx := 0, tUs := 0, pre := 0, vCnt := 0, sr := r,
            rxdata := r, dqOe := false, busy := false, done := true })

/-- READ_SP (R150): 72 read slots; bit `i` of SP[j] is sample `8j + i`, each byte written with its last bit; RXDATA
becomes SP[8]; RESULT, VALID and CRC_OK are cleared at acceptance and CRC is unchanged. -/
def Obligations.ReadSpFillsBuffer : Prop :=
  ∀ (s : State) (ign : Byte), s.busy = false →
    ∃ t, exec (.readSp ign) s = .next t ∧
      t = { s with
        curOp := .readSp, curData := ign, rangeEnL := s.rangeEn, slotIdx := 0, tUs := 0, pre := 0, vCnt := 0, sr := 0,
        dqOe := true, busy := true, done := false, result := .none, valid := false, crcOk := false } ∧
      (∀ ds : List Bool, ds.length < 72 →
        t.slotSteps ds =
          { t with slotIdx := ds.length, sr := (t.slotSteps ds).sr, sp := (t.slotSteps ds).sp } ∧
        (t.slotSteps ds).kind = some .r ∧
        ∀ j (h : j < 9), if 8 * j + 8 ≤ ds.length
          then ∀ i, i < 8 → (t.slotSteps ds).sp[j].getLsbD i = ds.getD (8 * j + i) false
          else (t.slotSteps ds).sp[j] = s.sp[j]) ∧
      (∀ ds : List Bool, ds.length = 72 →
        ∃ sp : Vector Byte 9, (∀ j (h : j < 9) i, i < 8 → sp[j].getLsbD i = ds.getD (8 * j + i) false) ∧
          t.slotSteps ds = { s with
            curOp := .idle, curData := ign, rangeEnL := s.rangeEn, slotIdx := 0, tUs := 0, pre := 0, vCnt := 0, sr := 0,
            sp := sp, rxdata := sp[8], dqOe := false, busy := false, done := true,
            result := .none, valid := false, crcOk := false })

/-- VALIDATE (R170): it drives nothing, takes no sample, and completes with the CRC over SP[0..7], the checksum verdict,
and the first of the checks that fails, in the order checksum, 0x0000, 0x0550, 0xFFFF, below LO, above HI. -/
def Obligations.ValidateReportsFirstFailure : Prop :=
  ∀ (s : State) (ign : Byte), s.busy = false →
    ∃ t, exec (.validate ign) s = .next t ∧
      t = { s with
        curOp := .validate, curData := ign, rangeEnL := s.rangeEn, slotIdx := 0, tUs := 0, pre := 0, vCnt := 0, sr := 0,
        dqOe := false, busy := true, done := false } ∧
      ∀ d (c : Byte) (raw : Half) (r : ResultCode),
        c = crc8 [s.sp[0], s.sp[1], s.sp[2], s.sp[3], s.sp[4], s.sp[5], s.sp[6], s.sp[7]] → raw = s.sp[1] ++ s.sp[0] →
        r = (if c ≠ s.sp[8] then .crcMismatch
          else if raw = 0x0000#16 then .rawZero
          else if raw = 0x0550#16 then .rawPowerOn
          else if raw = 0xFFFF#16 then .rawOnes
          else if s.rangeEn = true ∧ raw.toInt < s.rangeLo.toInt then .belowRange
          else if s.rangeEn = true ∧ s.rangeHi.toInt < raw.toInt then .aboveRange
          else .ok) →
        t.slotStep d = { s with
          curOp := .idle, curData := ign, rangeEnL := s.rangeEn, slotIdx := 0, tUs := 0, pre := 0, vCnt := 0, sr := 0,
          dqOe := false, busy := false, done := true, crcCalc := c, crcOk := decide (c = s.sp[8]), result := r,
          valid := decide (r = .ok) }

/-- A scratchpad is accepted exactly when its checksum matches, its raw value is no sentinel and, with the range check
on, lies in the inclusive range (R167, R168). -/
def Obligations.VerdictAcceptsExactly : Prop :=
  ∀ s : State, s.verdict = .ok ↔
    (crc8 s.crcBytes = s.sp[8] ∧ s.raw ≠ 0x0000#16 ∧ s.raw ≠ 0x0550#16 ∧ s.raw ≠ 0xFFFF#16 ∧
      (s.rangeEnL = true → s.rangeLo.toInt ≤ s.raw.toInt ∧ s.raw.toInt ≤ s.rangeHi.toInt))

/-- VALIDATE depends on SP, RANGE and the latched enable only, leaves them as they were (so does its acceptance, which
latches RANGE_EN), and a second VALIDATE leaves every register as the first left it (R173). -/
def Obligations.ValidateIsDeterministicAndIdempotent : Prop :=
  (∀ s t : State, s.curOp = .validate → t.curOp = .validate → t.sp = s.sp → t.rangeLo = s.rangeLo →
    t.rangeHi = s.rangeHi → t.rangeEnL = s.rangeEnL → ∀ d e,
      (t.slotStep e).crcCalc = (s.slotStep d).crcCalc ∧ (t.slotStep e).crcOk = (s.slotStep d).crcOk ∧
      (t.slotStep e).result = (s.slotStep d).result ∧ (t.slotStep e).valid = (s.slotStep d).valid) ∧
  (∀ (s : State) d, s.curOp = .validate →
    (s.slotStep d).sp = s.sp ∧ (s.slotStep d).rangeLo = s.rangeLo ∧ (s.slotStep d).rangeHi = s.rangeHi ∧
    (s.slotStep d).rangeEnL = s.rangeEnL ∧ (s.slotStep d).rangeEn = s.rangeEn) ∧
  (∀ (s : State) (ign ign' : Byte) d e, s.busy = false →
    ∃ t u, exec (.validate ign) s = .next t ∧ exec (.validate ign') (t.slotStep d) = .next u ∧
      t.sp = s.sp ∧ t.rangeLo = s.rangeLo ∧ t.rangeHi = s.rangeHi ∧ t.rangeEnL = s.rangeEn ∧ t.rangeEn = s.rangeEn ∧
      (u.slotStep e).done = true ∧ State.SameView (t.slotStep d) (u.slotStep e))

/-- Byte `j` that READ_SP stores is what READ_BYTE returns for the same eight samples (R152): those of READ_SP's slots
`8j` to `8j + 7` are those of READ_BYTE's slots 0 to 7. -/
def Obligations.ReadSpIsNineReadBytes : Prop :=
  ∀ (s s' t t' : State) (ign ign' : Byte) (ds : List Bool) (j : Nat) (h : j < 9), s.busy = false → s'.busy = false →
    exec (.readSp ign) s = .next t → exec (.readByte ign') s' = .next t' → ds.length = 72 →
      (t.slotSteps ds).sp[j] = (t'.slotSteps ((ds.drop (8 * j)).take 8)).rxdata

/-- WRITE_BYTE `b` runs the slots that eight WRITE_BIT commands with `b[0]` to `b[7]` run (R141 d). -/
def Obligations.WriteByteIsEightWriteBits : Prop :=
  ∀ (s s' t t' : State) (b : Byte) (ign : BitVec 7) (ds : List Bool), s.busy = false → s'.busy = false → ds.length < 8 →
    exec (.writeByte b) s = .next t → exec (.writeBit (b.getLsbD ds.length) ign) s' = .next t' →
      (t.slotSteps ds).kind = t'.kind ∧ t'.kind ≠ none

/-- The DATA bits a command ignores have no effect but on the latch `cur_data` (R93), however far the command runs. -/
def Obligations.IgnoredDataHasNoEffect : Prop :=
  ∀ (i : Instr) (s t t' : State) (ds : List Bool), s.busy = false → exec i s = .next t →
    exec (canonical i) s = .next t' →
      { t.slotSteps ds with curData := 0 } = { t'.slotSteps ds with curData := 0 }

/-- The residue property (R163): appending a byte gives CRC 0 exactly when the byte is the CRC; hence the checksum
verdict of R164 is equivalent to CRC 0 over all nine bytes. -/
def Obligations.CrcResidue : Prop :=
  (∀ (bs : List Byte) (x : Byte), crc8 (bs ++ [x]) = 0x00#8 ↔ x = crc8 bs) ∧
  ∀ s : State, s.crcNow = s.sp[8] ↔
    crc8 [s.sp[0], s.sp[1], s.sp[2], s.sp[3], s.sp[4], s.sp[5], s.sp[6], s.sp[7], s.sp[8]] = 0x00#8

/-- The check values of R162. -/
def Obligations.CrcCheckValues : Prop :=
  crc8 [0x31, 0x32, 0x33, 0x34, 0x35, 0x36, 0x37, 0x38, 0x39] = 0xA1 ∧
  crc8 (List.replicate 8 0x00) = 0x00 ∧ crc8 (List.replicate 8 0xFF) = 0xC9 ∧
  crc8 [0x01] = 0x5E ∧ crc8 [0x80] = 0x8C ∧ crc8 [0xFF] = 0x35

/-- Over zero bytes the CRC register reaches 0 only from 0 (R161), so only the initial value 0 gives an all-zero
scratchpad checksum 0. -/
def Obligations.CrcZeroOnlyFromZero : Prop :=
  ∀ (c : Byte) (n : Nat), (List.replicate n 0x00#8).foldl crcByte c = 0x00#8 ↔ c = 0x00#8

/-- The CRC of one more byte depends only on the register exclusive-or the byte: the table form of R160 (95 §2.5). -/
def Obligations.CrcTableForm : Prop :=
  ∀ (bs : List Byte) (b : Byte), crc8 (bs ++ [b]) = crc8 [crc8 bs ^^^ b]

/-- What the registers read right after reset (R23, R221), whatever LINE shows. -/
def Obligations.ResetValuesRead : Prop :=
  (∀ line, State.reset.readReg .ctrl line = 0x00000008#32 ∧
    State.reset.readReg .status line = (if line then 0x00000080#32 else 0x00000000#32) ∧
    State.reset.readReg .cmd line = 0#32 ∧ State.reset.readReg .rxdata line = 0#32 ∧
    State.reset.readReg .crc line = 0#32 ∧ State.reset.readReg .sp0 line = 0#32 ∧
    State.reset.readReg .sp1 line = 0#32 ∧ State.reset.readReg .sp2 line = 0#32 ∧
    State.reset.readReg .temp line = 0#32 ∧ State.reset.readReg .range line = 0x03200050#32) ∧
  State.reset.curOp = .idle ∧ State.reset.dqOe = false ∧ State.reset.irq = false

/-- A CTRL write with bit 0 = 1 puts every register and hidden element at its reset value, whatever was running; the
ghost flag keeps its value (R222, R24), but for a reserved bit of the write itself (log entry 14), and so do the record of
the read data and the model's own fields (log entries 3, 6, 12). -/
def Obligations.SoftResetRestoresEverything : Prop :=
  ∀ (s : State) (v : Word) (line : Bool), s.rstN = true → v.getLsbD 0 = true →
    portAccess (Access.writeOf .ctrl v) line s = .next { State.reset with
      viol := s.viol || v.extractLsb' 4 28 != 0, hRdata := s.hRdata, inputs := s.inputs, draws := s.draws } ∧
    clockAccess (Access.writeOf .ctrl v) line s = .next { State.reset with
      viol := s.viol || v.extractLsb' 4 28 != 0, hRdata := s.hRdata, inputs := s.inputs, draws := s.draws }

/-- `rst_n = 0` resets at once and holds: clock edges change nothing, writes are ignored and reads return 0 (the ghost
flag still notes a reserved bit, log entry 14); when it rises the block is idle at its reset values (R220). -/
def Obligations.HardwareResetHolds : Prop :=
  ∀ (s : State) (r : State), r = s.setRstN false →
    r = { State.reset with
      rstN := false, viol := s.viol, hRdata := s.hRdata, inputs := s.inputs, draws := s.draws } ∧
    r.irq = false ∧
    (∀ line, r.clockEdge line = r) ∧
    (∀ reg v line, portAccess (Access.writeOf reg v) line r = .next { r with viol := r.viol || reservedSet reg v }) ∧
    (∀ reg line, portAccess (Access.readOf reg) line r = .next { r with hRdata := 0#32 }) ∧
    r.setRstN true = { r with rstN := true }

/-- Each word index of the window selects the register of R23; 0x28 to 0x3C are reserved. -/
def Obligations.RegisterMap : Prop :=
  (∀ r : Reg, regAt (BitVec.ofNat 6 r.offset) = r) ∧
  (∀ a : BitVec 6, 0x28 ≤ a.toNat → regAt a = .reserved) ∧
  (∀ a b : BitVec 6, a.toNat / 4 = b.toNat / 4 → regAt a = regAt b)

/-- A host read returns the register its address selects and changes nothing else; `hRdata` is the model's record of what
it returned (log entry 12). The words are those of R63: zero-extended fields, packed bytes, 0 for CMD and the reserved
offsets (STATUS is StatusLayout, TEMP is TempIsSignedRaw). -/
def Obligations.ReadsHaveNoSideEffect : Prop :=
  (∀ (s : State) (a : Access) (line : Bool), s.rstN = true → a.write = false →
    portAccess a line s = .next { s with hRdata := s.readReg (regAt a.addr) line }) ∧
  (∀ (s : State) (line : Bool),
    (s.readReg .ctrl line).toNat = 2 * s.ieDone.toNat + 4 * s.ieErr.toNat + 8 * s.rangeEn.toNat ∧
    s.readReg .cmd line = 0#32 ∧
    (s.readReg .rxdata line).toNat = s.rxdata.toNat ∧
    (s.readReg .crc line).toNat = s.crcCalc.toNat ∧
    (s.readReg .sp0 line).toNat =
      s.sp[0].toNat + 256 * s.sp[1].toNat + 65536 * s.sp[2].toNat + 16777216 * s.sp[3].toNat ∧
    (s.readReg .sp1 line).toNat =
      s.sp[4].toNat + 256 * s.sp[5].toNat + 65536 * s.sp[6].toNat + 16777216 * s.sp[7].toNat ∧
    (s.readReg .sp2 line).toNat = s.sp[8].toNat ∧
    (s.readReg .range line).toNat = s.rangeLo.toNat + 65536 * s.rangeHi.toNat ∧
    s.readReg .reserved line = 0#32)

/-- The bits of STATUS (R25, R63), RESULT with the codes of R38. -/
def Obligations.StatusLayout : Prop :=
  ∀ (s : State) (line : Bool) (v : Word), v = s.readReg .status line →
    v.getLsbD 0 = s.busy ∧ v.getLsbD 1 = s.done ∧ v.getLsbD 2 = s.errCmd ∧ v.getLsbD 3 = s.errBusy ∧
    v.getLsbD 4 = s.presence ∧ v.getLsbD 5 = s.crcOk ∧ v.getLsbD 6 = s.valid ∧ v.getLsbD 7 = line ∧
    v.extractLsb' 8 4 = (match s.result with
      | .none => 0#4
      | .ok => 1#4
      | .crcMismatch => 2#4
      | .rawZero => 3#4
      | .rawPowerOn => 4#4
      | .rawOnes => 5#4
      | .belowRange => 6#4
      | .aboveRange => 7#4) ∧
    v.extractLsb' 12 20 = 0#20

/-- TEMP read as a signed number is the little-endian two's-complement value of SP[1], SP[0] (R36, R166, R174). -/
def Obligations.TempIsSignedRaw : Prop :=
  ∀ (s : State) (line : Bool),
    (s.readReg .temp line).toInt =
      if s.sp[1].toNat < 128 then (256 * s.sp[1].toNat + s.sp[0].toNat : Int)
      else (256 * s.sp[1].toNat + s.sp[0].toNat : Int) - 65536

/-- A CTRL write with bit 0 = 0 sets the three enables and nothing else, busy or not (R24). -/
def Obligations.CtrlWriteSetsEnables : Prop :=
  ∀ (s : State) (v : Word) (line : Bool), s.rstN = true → v.getLsbD 0 = false →
    portAccess (Access.writeOf .ctrl v) line s = .next { s with
      ieDone := v.getLsbD 1, ieErr := v.getLsbD 2, rangeEn := v.getLsbD 3,
      viol := s.viol || v.extractLsb' 4 28 != 0 }

/-- A change of RANGE_EN while VALIDATE runs does not affect that VALIDATE (R24). -/
def Obligations.RangeEnableIsLatched : Prop :=
  ∀ (s t : State) (v : Word) (line d e : Bool), s.curOp = .validate → s.rstN = true → v.getLsbD 0 = false →
    portAccess (Access.writeOf .ctrl v) line s = .next t →
      (t.slotStep d).result = (s.slotStep e).result ∧ (t.slotStep d).valid = (s.slotStep e).valid

/-- A STATUS write clears the sticky bits it has a 1 for and nothing else, busy or not (R25, R64). -/
def Obligations.StatusWriteClearsSticky : Prop :=
  ∀ (s : State) (v : Word) (line : Bool), s.rstN = true →
    portAccess (Access.writeOf .status v) line s = .next { s with
      done := if v.getLsbD 1 then false else s.done
      errCmd := if v.getLsbD 2 then false else s.errCmd
      errBusy := if v.getLsbD 3 then false else s.errBusy
      viol := s.viol || v.extractLsb' 12 20 != 0 }

/-- An accepted write to SP0, SP1 or SP2 reads back, leaves the other bytes alone and clears the verdict; one to RANGE
reads back and leaves the verdict alone (R64, R29, R35). -/
def Obligations.BufferWritesReadBack : Prop :=
  ∀ (s : State) (v : Word) (line l : Bool), s.rstN = true → s.busy = false →
    (∃ t, portAccess (Access.writeOf .sp0 v) line s = .next t ∧ t.readReg .sp0 l = v ∧
      t = { s with sp := t.sp, result := .none, valid := false, crcOk := false } ∧
      ∀ j (h : j < 9), 4 ≤ j → t.sp[j] = s.sp[j]) ∧
    (∃ t, portAccess (Access.writeOf .sp1 v) line s = .next t ∧ t.readReg .sp1 l = v ∧
      t = { s with sp := t.sp, result := .none, valid := false, crcOk := false } ∧
      ∀ j (h : j < 9), (j < 4 ∨ j = 8) → t.sp[j] = s.sp[j]) ∧
    (∃ t, portAccess (Access.writeOf .sp2 v) line s = .next t ∧ t.readReg .sp2 l = v &&& 0x000000FF#32 ∧
      t = { s with
        sp := t.sp, result := .none, valid := false, crcOk := false, viol := s.viol || v.extractLsb' 8 24 != 0 } ∧
      ∀ j (h : j < 9), j < 8 → t.sp[j] = s.sp[j]) ∧
    (∃ t, portAccess (Access.writeOf .range v) line s = .next t ∧ t.readReg .range l = v ∧
      t = { s with rangeLo := t.rangeLo, rangeHi := t.rangeHi })

/-- Writes to the read-only registers and to each of the reserved offsets have no effect, no error and no violation (R32,
R34, R36, R37, R64). -/
def Obligations.ReadOnlyRegistersIgnoreWrites : Prop :=
  ∀ (s : State) (a : Access) (line : Bool), a.write = true →
    (regAt a.addr = .rxdata ∨ regAt a.addr = .crc ∨ regAt a.addr = .temp ∨ regAt a.addr = .reserved) →
      portAccess a line s = .next s

/-- While BUSY = 1 a write to CMD (any value), SP0, SP1, SP2 or RANGE sets ERR_BUSY and does nothing else; writes to
CTRL and STATUS and reads do not set it (R193). -/
def Obligations.BusyWritesRaiseErrBusy : Prop :=
  ∀ (s : State) (line : Bool), s.busy = true → s.rstN = true →
    (∀ (r : Reg) (v : Word), (r = .cmd ∨ r = .sp0 ∨ r = .sp1 ∨ r = .sp2 ∨ r = .range) →
      portAccess (Access.writeOf r v) line s =
        .next { s with errBusy := true, viol := s.viol || reservedSet r v }) ∧
    (∀ (r : Reg) (v : Word) (t : State), (r = .ctrl ∨ r = .status) →
      portAccess (Access.writeOf r v) line s = .next t → t.errBusy = true → s.errBusy = true) ∧
    (∀ (r : Reg) (t : State), portAccess (Access.readOf r) line s = .next t → t.errBusy = s.errBusy)

/-- An illegal opcode written to CMD while BUSY = 0 sets ERR_CMD and changes nothing else; while BUSY = 1 the BUSY check
comes first and only ERR_BUSY is set (R96, R192, R197 a). -/
def Obligations.IllegalOpcodeRaisesErrCmd : Prop :=
  ∀ (s : State) (v : Word) (line : Bool), s.rstN = true → ((opField v).toNat = 0 ∨ 8 ≤ (opField v).toNat) →
    (s.busy = false → portAccess (Access.writeOf .cmd v) line s =
      .next { s with errCmd := true, viol := s.viol || cmdReservedSet v }) ∧
    (s.busy = true → portAccess (Access.writeOf .cmd v) line s =
      .next { s with errBusy := true, viol := s.viol || cmdReservedSet v })

/-- A command request while BUSY = 1 raises ERR_BUSY only, for each command (R95, R191, R197 a). -/
def Obligations.BusyCommandIsTurnedAway : Prop :=
  ∀ (i : Instr) (s : State), s.busy = true → exec i s = .next { s with errBusy := true }

/-- An aligned 32-bit access by address is the port access at `addr - OW_BASE` inside the window; an access outside the
window does not touch the block (R60, R61; log entry 16). -/
def Obligations.WindowSelection : Prop :=
  ∀ (s : State) (line : Bool) (rest : List Input) (w : Option Word),
    (∀ off, off ≤ 0x3F → off % 4 = 0 → s.inputs = .mem ⟨Config.owBase + off, 4, w⟩ line :: rest →
      step s = step { s with
        inputs := .access ⟨w.isSome, BitVec.ofNat 6 off, 0b10#2, w.getD 0#32⟩ line :: rest }) ∧
    (∀ addr n, (addr < Config.owBase ∨ Config.owBase + 0x3F < addr) → s.inputs = .mem ⟨addr, n, w⟩ line :: rest →
      step s = .next { s with inputs := rest })

/-- An access that is not an aligned 32-bit one sets `viol` and has no step (R62, R230 a). The two steps of it are the
model's choice (log entry 5): the first sets the flag and leaves the access pending, and a machine with the flag set
refuses it. -/
def Obligations.SubwordAccessIsRefused : Prop :=
  ∀ (s : State) (a : Access) (off n : Nat) (w : Option Word) (line : Bool) (rest : List Input),
    ((s.inputs = .access a line :: rest ∨ s.inputs = .clockAccess a line :: rest) ∧
        (a.size ≠ 0b10#2 ∨ a.addr.toNat % 4 ≠ 0)) ∨
      (s.inputs = .mem ⟨Config.owBase + off, n, w⟩ line :: rest ∧ off ≤ 0x3F ∧ (n ≠ 4 ∨ off % 4 ≠ 0)) →
      (s.viol = false → step s = .next { s with viol := true }) ∧
      (s.viol = true → step s = .refused .subwordAccess)

/-- The ghost flag is set exactly by host protocol violations, is never cleared, not even by reset, and starts at 0
(R42, R230; that a step with an undefined access sets it, log entry 5, and in reset, log entry 14). -/
def Obligations.ViolSetAndNeverCleared : Prop :=
  State.reset.viol = false ∧
  ∀ s t : State, step s = .next t →
    t.viol = (s.viol || match s.inputs with | [] => false | i :: _ => i.violates)

/-- Every step answers a next state, but for a pending access that is not an aligned 32-bit one (R62, R190). That such an
access is refused with the ghost flag set, and answers a next state with the flag clear, is the model's choice (log
entry 5). -/
def Obligations.NothingElseStops : Prop :=
  ∀ s : State, (∃ t, step s = .next t) ∨
    (step s = .refused .subwordAccess ∧ s.viol = true ∧
      ∃ i rest a, s.inputs = i :: rest ∧ i.access? = some a ∧ a.isDefined = false)

/-- The interrupt output (R196): DONE with IE_DONE, an error with IE_ERR; clearing the enable, or the bit, deasserts it;
acceptance of a command deasserts the DONE part. -/
def Obligations.IrqIsLevelOfStatus : Prop :=
  ∀ (s : State) (line : Bool), s.rstN = true →
    (s.irq = true ↔ (s.done = true ∧ s.ieDone = true) ∨ ((s.errCmd = true ∨ s.errBusy = true) ∧ s.ieErr = true)) ∧
    (∃ t, portAccess (Access.writeOf .ctrl 0x00000008#32) line s = .next t ∧ t.irq = false ∧ t.done = s.done ∧
      t.errCmd = s.errCmd ∧ t.errBusy = s.errBusy) ∧
    (∃ t, portAccess (Access.writeOf .status 0x0000000E#32) line s = .next t ∧ t.irq = false ∧ t.ieDone = s.ieDone ∧
      t.ieErr = s.ieErr) ∧
    (∀ (i : Instr), s.busy = false → s.errCmd = false → s.errBusy = false →
      ∃ t, exec i s = .next t ∧ t.irq = false)

/-- The invariant holds right after reset (R41, R220). -/
def Obligations.InvariantAtReset : Prop := Inv State.reset

/-- Every step keeps the invariant (R41): BUSY with `cur_op`, `dq_oe` with the low phase, VALID and CRC_OK with RESULT,
the counters in their ranges, the synchronizer's contents, and the block held while `rst_n = 0`. That `pre` and `v_cnt` are
0 where they do not count is the model's choice (log entry 11). -/
def Obligations.StepKeepsInvariant : Prop :=
  ∀ s t : State, Inv s → step s = .next t → Inv t

/-- While a command runs, a step does one of three things. It resets the block, by `rst_n = 0` or a soft reset and nothing
else (R220, R222); it completes the command, publishing its results with BUSY = 0 and DONE = 1 in the one step (R73,
R116); or it leaves the command running and every result register as it was (R74). The results are the new values of
RXDATA, PRESENCE, CRC, CRC_OK, VALID and RESULT; a command with no result leaves all six. -/
def Obligations.ResultsPublishedAtCompletion : Prop :=
  ∀ s t : State, Inv s → s.busy = true → step s = .next t →
    (t.AtReset ∧ ((∃ rest, s.inputs = .rst false :: rest) ∨ s.nextAccess fun a =>
      a.write = true ∧ regAt a.addr = .ctrl ∧ a.wdata.getLsbD 0 = true)) ∨
    (t.busy = false ∧ t.done = true ∧ t.curOp = .idle ∧
      (t.presence, t.rxdata, t.crcCalc, t.crcOk, t.valid, t.result) = (match s.curOp with
        | .reset => (t.presenceL, s.rxdata, s.crcCalc, s.crcOk, s.valid, s.result)
        | .readBit => (s.presence, if t.sr.getLsbD 0 then 0x01#8 else 0x00#8, s.crcCalc, s.crcOk, s.valid, s.result)
        | .readByte => (s.presence, t.sr, s.crcCalc, s.crcOk, s.valid, s.result)
        | .readSp => (s.presence, t.sp[8], s.crcCalc, s.crcOk, s.valid, s.result)
        | .validate => (s.presence, s.rxdata, crc8 s.crcBytes, decide (crc8 s.crcBytes = s.sp[8]),
            decide (s.verdict = .ok), s.verdict)
        | .idle | .writeBit | .writeByte => (s.presence, s.rxdata, s.crcCalc, s.crcOk, s.valid, s.result))) ∨
    (t.busy = true ∧ t.curOp = s.curOp ∧ State.SameResults s t)

/-- Who writes what, but for a reset: PRESENCE changes only at the completion of RESET (R28), RXDATA of a read command
(R32), CRC of VALIDATE (R34); CRC_OK, VALID and RESULT at the completion of VALIDATE, the acceptance of READ_SP or an
accepted write to SP (R29); SP in READ_SP or by a host write while idle (R35), RANGE by a host write while idle (R33),
the CTRL enables by a CTRL write (R24). -/
def Obligations.RegistersHaveOneWriter : Prop :=
  ∀ s t : State, Inv s → step s = .next t → ¬ t.AtReset →
    (t.presence ≠ s.presence → s.curOp = .reset ∧ t.curOp = .idle) ∧
    (t.rxdata ≠ s.rxdata → (s.curOp = .readBit ∨ s.curOp = .readByte ∨ s.curOp = .readSp) ∧ t.curOp = .idle) ∧
    (t.crcCalc ≠ s.crcCalc → s.curOp = .validate ∧ t.curOp = .idle) ∧
    ((t.crcOk ≠ s.crcOk ∨ t.valid ≠ s.valid ∨ t.result ≠ s.result) →
      (s.curOp = .validate ∧ t.curOp = .idle) ∨
      (s.busy = false ∧ t.curOp = .readSp ∧ s.nextAccess fun a => a.write = true ∧ regAt a.addr = .cmd) ∨
      (s.busy = false ∧ s.nextAccess fun a =>
        a.write = true ∧ (regAt a.addr = .sp0 ∨ regAt a.addr = .sp1 ∨ regAt a.addr = .sp2))) ∧
    (t.sp ≠ s.sp → s.curOp = .readSp ∨
      (s.busy = false ∧ s.nextAccess fun a =>
        a.write = true ∧ (regAt a.addr = .sp0 ∨ regAt a.addr = .sp1 ∨ regAt a.addr = .sp2))) ∧
    ((t.rangeLo ≠ s.rangeLo ∨ t.rangeHi ≠ s.rangeHi) →
      s.busy = false ∧ s.nextAccess fun a => a.write = true ∧ regAt a.addr = .range) ∧
    ((t.ieDone ≠ s.ieDone ∨ t.ieErr ≠ s.ieErr ∨ t.rangeEn ≠ s.rangeEn) →
      s.nextAccess fun a => a.write = true ∧ regAt a.addr = .ctrl)

/-- The sticky bits (R27): once set, ERR_CMD and ERR_BUSY stay set until the host writes 1 to them or a reset, and DONE
until then or until a command is accepted. -/
def Obligations.StickyBitsStaySet : Prop :=
  ∀ s t : State, Inv s → step s = .next t → ¬ t.AtReset →
    (s.errCmd = true → t.errCmd = false → s.nextAccess fun a =>
      a.write = true ∧ regAt a.addr = .status ∧ a.wdata.getLsbD 2 = true) ∧
    (s.errBusy = true → t.errBusy = false → s.nextAccess fun a =>
      a.write = true ∧ regAt a.addr = .status ∧ a.wdata.getLsbD 3 = true) ∧
    (s.done = true → t.done = false →
      (s.busy = false ∧ t.busy = true) ∨
      s.nextAccess fun a => a.write = true ∧ regAt a.addr = .status ∧ a.wdata.getLsbD 1 = true)

/-- What raises the sticky bits (R25, R192, R193): ERR_CMD an illegal opcode written to CMD while BUSY = 0 and nothing
else, ERR_BUSY a write to CMD, SP0, SP1, SP2 or RANGE while BUSY = 1 and nothing else, DONE the completion of a command
and nothing else. -/
def Obligations.StickyBitsRiseByTheirCause : Prop :=
  ∀ s t : State, Inv s → step s = .next t →
    (s.errCmd = false → t.errCmd = true → s.busy = false ∧ s.nextAccess fun a =>
      a.write = true ∧ regAt a.addr = .cmd ∧ ((opField a.wdata).toNat = 0 ∨ 8 ≤ (opField a.wdata).toNat)) ∧
    (s.errBusy = false → t.errBusy = true → s.busy = true ∧ s.nextAccess fun a =>
      a.write = true ∧ (regAt a.addr = .cmd ∨ regAt a.addr = .sp0 ∨ regAt a.addr = .sp1 ∨ regAt a.addr = .sp2 ∨
        regAt a.addr = .range)) ∧
    (s.done = false → t.done = true → s.busy = true ∧ t.busy = false)

/-- A host access that is no soft reset, while a command runs, leaves the command's whole state alone: only the enables,
the sticky bits, the ghost flag and the read data may change; and on a clock edge the engine moves as it does on the same
edge with no access (R117; the order on an edge: log entry 20). -/
def Obligations.HostDoesNotDisturbCommand : Prop :=
  ∀ (s t : State) (a : Access) (line : Bool), s.busy = true → a.isSoftReset = false →
    (portAccess a line s = .next t →
      t = { s with
        ieDone := t.ieDone, ieErr := t.ieErr, rangeEn := t.rangeEn, done := t.done, errCmd := t.errCmd,
        errBusy := t.errBusy, viol := t.viol, hRdata := t.hRdata }) ∧
    (clockAccess a line s = .next t →
      t = { s.clockEdge line with
        ieDone := t.ieDone, ieErr := t.ieErr, rangeEn := t.rangeEn, done := t.done, errCmd := t.errCmd,
        errBusy := t.errBusy, viol := t.viol, hRdata := t.hRdata })

/-- The untimed step is the timed engine (R114). From any instant of a slot, the clock edges that are left of the slot do
what one slot step does with the sampled level as its draw, but for the synchronizer's contents. From the start of a slot
that level is the synchronized one at the edge at SAMPLE (R115), 550 µs in a reset slot and 15 µs in a read slot (R112,
R120, R130), and, unless SYNC_CLKS exceeds US_DIV (the premise of R118), it is the level the devices alone leave on the
line SYNC_CLKS edges before; a write slot takes no sample, so the draw changes nothing (R125). In VALIDATE the clock edges
that are left do what the one step of the untimed VALIDATE does, results included (R170). The engine's phase and the
order on an edge are the model's reading (log entries 7, 8, 10). -/
def Obligations.ClockedSlotIsSlotStep : Prop :=
  (∀ (s : State) (k : SlotKind) (lines : List Bool), Inv s → s.rstN = true → s.kind = some k →
    lines.length = k.total * Config.usDiv - s.slotClks →
      ∃ d, { s.clockEdges lines with sync := [] } = { s.slotStep d with sync := [] } ∧
        (∀ t, (match k with | .rst => some 550 | .r => some 15 | .w0 => none | .w1 => none) = some t → s.slotClks = 0 →
          d = (s.clockEdges (lines.take (t * Config.usDiv - 1))).syncedLine (lines.getD (t * Config.usDiv - 1) false) ∧
          (d = lines.getD (t * Config.usDiv - 1 - Config.syncClks) false ∨ Config.usDiv < Config.syncClks)) ∧
        (k = .w0 ∨ k = .w1 → ∀ e, s.slotStep e = s.slotStep d)) ∧
  (∀ (s : State) (lines : List Bool) (d : Bool), Inv s → s.rstN = true → s.curOp = .validate →
    lines.length = Config.vCycles - s.vCnt →
      { s.clockEdges lines with sync := [] } = { s.slotStep d with sync := [] })

/-- A command takes exactly the time of R119: on the clock edges before that it is running, and on that edge it
completes (the engine's phase: log entry 7). -/
def Obligations.CommandDurations : Prop :=
  ∀ (i : Instr) (s t : State) (lines : List Bool) (n : Nat), Inv s → s.rstN = true → s.busy = false →
    exec i s = .next t →
    n = (match i with
      | .reset _ => 960 * Config.usDiv
      | .writeBit _ _ => 70 * Config.usDiv
      | .readBit _ => 70 * Config.usDiv
      | .writeByte _ => 560 * Config.usDiv
      | .readByte _ => 560 * Config.usDiv
      | .readSp _ => 5040 * Config.usDiv
      | .validate _ => Config.vCycles) →
    (lines.length < n → (t.clockEdges lines).busy = true ∧ (t.clockEdges lines).done = false) ∧
    (lines.length = n → (t.clockEdges lines).busy = false ∧ (t.clockEdges lines).done = true ∧
      (t.clockEdges lines).curOp = .idle)

/-- Within a slot `dq_oe` is 1 for exactly the first LOW µs (R112; the engine's phase: log entry 7). -/
def Obligations.LowPhaseTiming : Prop :=
  ∀ (s : State) (k : SlotKind) (lines : List Bool), Inv s → s.rstN = true → s.kind = some k → s.slotClks = 0 →
    lines.length < k.total * Config.usDiv →
      (s.clockEdges lines).kind = some k ∧
      ((s.clockEdges lines).dqOe = true ↔ lines.length <
        (match k with | .rst => 480 | .w1 => 6 | .w0 => 60 | .r => 6) * Config.usDiv)

/-- The block drives the line only in the low phase of a bus command's slot; idle, in reset or running VALIDATE it
releases it (R41 b, R110). -/
def Obligations.LineReleasedUnlessInSlot : Prop :=
  ∀ s : State, Inv s →
    (s.curOp = .idle ∨ s.rstN = false ∨ s.curOp = .validate → s.dqOe = false ∧ ∀ p, s.padLow p = false) ∧
    (s.dqOe = true → ∃ k, s.kind = some k ∧ s.tUs < k.low)

/-- STATUS.LINE (R30). Bit 7 of what a STATUS read returns is the level the synchronizer shows if the read is on a clock
edge, else the draw, with 0 where the line is held low. The synchronizer shows `dq_in` as it was `SYNC_CLKS` clock cycles
ago (`lines` are the devices' levels on those edges, `line` the level now). While `dq_oe = 1` both levels are 0, unless
that has held for fewer than `SYNC_CLKS` cycles, and so, for an access of the untimed model, once clocked time has passed
in the slot (log entries 9, 10). -/
def Obligations.LineShowsSynchronizedLevel : Prop :=
  (∀ (s : State) (a : Access) (line : Bool) (rest : List Input), s.rstN = true → a.isDefined = true → a.write = false →
    regAt a.addr = .status →
    (s.inputs = .clockAccess a line :: rest →
      ∃ t, step s = .next t ∧ t.hRdata.getLsbD 7 = s.syncedLine line) ∧
    (s.inputs = .access a line :: rest → ∃ t, step s = .next t ∧ t.hRdata.getLsbD 7 = s.drawnLine line)) ∧
  (∀ (s : State) (line : Bool) (lines : List Bool), s.rstN = true → s.sync.length = Config.syncClks →
    lines.length = Config.syncClks →
      (s.clockEdges lines).syncedLine line = s.dqIn ((lines ++ [line]).headD true)) ∧
  (∀ (s : State) (line : Bool), Inv s → s.dqOe = true →
    (s.syncedLine line = false ∨ s.slotClks < Config.syncClks) ∧
    (s.drawnLine line = false ∨ s.slotClks = 0 ∨ s.slotClks < Config.syncClks))

/-- A host access on the clock edge that completes a command (R198, R27): it sees the state before the edge (a STATUS read
returns BUSY = 1, a CMD write raises ERR_BUSY), and the completion's DONE wins over a clear (log entry 20). -/
def Obligations.CompletionEdgeOrder : Prop :=
  ∀ (s : State) (v : Word) (line : Bool), Inv s → s.rstN = true → s.busy = true → (s.clockEdge line).busy = false →
    (∃ t, clockAccess (Access.readOf .status) line s = .next t ∧ t.hRdata.getLsbD 0 = true ∧ t.busy = false ∧
      t.done = true) ∧
    (∃ t, clockAccess (Access.writeOf .cmd v) line s = .next t ∧ t.errBusy = true ∧ t.busy = false ∧ t.done = true) ∧
    (∃ t, clockAccess (Access.writeOf .status v) line s = .next t ∧ t.busy = false ∧ t.done = true)

/-- With no input pending, the controller finishes the running command by itself, in one step for each slot left or one
step for VALIDATE, at most 72 (R236); that it moves on alone is the model's form of weak fairness (log entry 4). -/
def Obligations.RunningCommandTerminates : Prop :=
  ∀ s : State, Inv s → s.inputs = [] → s.busy = true →
    ∃ n t, n = (if s.curOp = .validate then 1 else s.curOp.slots - s.slotIdx) ∧ n ≤ 72 ∧
      Host.Core.run core n s = .next t ∧ t.busy = false ∧ t.done = true ∧ t.curOp = .idle

/-- A step performs the pending host access when it is an aligned 32-bit one: at the port, by address inside the window
(R60), and on a clock edge, where the access sees the state before the edge and the controller moves after it, but not in
reset, on a soft reset, or for a command accepted on the edge (R198; log entry 20). -/
def Obligations.StepPerformsHostAccess : Prop :=
  ∀ (s : State) (a : Access) (line : Bool) (rest : List Input), a.isDefined = true →
    (s.inputs = .access a line :: rest →
      step s = portAccess a (s.drawnLine line) { s with inputs := rest }) ∧
    (∀ m : MemOp, m.toAccess = some a → s.inputs = .mem m line :: rest →
      step s = portAccess a (s.drawnLine line) { s with inputs := rest }) ∧
    (Inv s → s.inputs = .clockAccess a line :: rest →
      ∃ u, portAccess a (s.syncedLine line) { s with inputs := rest } = .next u ∧
        step s = .next (
          if s.rstN = false ∨ a.isSoftReset = true then u
          else if s.busy = true then u.clockEdge line
          else { u with sync := (s.dqIn line :: u.sync).dropLast }))
end

