-- ==== Sys2Proof/Laws/State.lean ====
section
/-! SUPPORT. One simp lemma for each field and each named update of the state, true by unfolding; later proofs cite
these in place of the updates' definitions. -/

namespace Sys2Proof.Machine.State

@[simp] theorem reset_ieDone : reset.ieDone = false := rfl
@[simp] theorem reset_ieErr : reset.ieErr = false := rfl
@[simp] theorem reset_rangeEn : reset.rangeEn = true := rfl
@[simp] theorem reset_busy : reset.busy = false := rfl
@[simp] theorem reset_done : reset.done = false := rfl
@[simp] theorem reset_errCmd : reset.errCmd = false := rfl
@[simp] theorem reset_errBusy : reset.errBusy = false := rfl
@[simp] theorem reset_presence : reset.presence = false := rfl
@[simp] theorem reset_crcOk : reset.crcOk = false := rfl
@[simp] theorem reset_valid : reset.valid = false := rfl
@[simp] theorem reset_result : reset.result = .none := rfl
@[simp] theorem reset_rxdata : reset.rxdata = 0x00 := rfl
@[simp] theorem reset_crcCalc : reset.crcCalc = 0x00 := rfl
@[simp] theorem reset_sp : reset.sp = Vector.replicate 9 0x00 := rfl
@[simp] theorem reset_rangeLo : reset.rangeLo = 0x0050 := rfl
@[simp] theorem reset_rangeHi : reset.rangeHi = 0x0320 := rfl
@[simp] theorem reset_curOp : reset.curOp = .idle := rfl
@[simp] theorem reset_curData : reset.curData = 0x00 := rfl
@[simp] theorem reset_rangeEnL : reset.rangeEnL = true := rfl
@[simp] theorem reset_slotIdx : reset.slotIdx = 0 := rfl
@[simp] theorem reset_tUs : reset.tUs = 0 := rfl
@[simp] theorem reset_pre : reset.pre = 0 := rfl
@[simp] theorem reset_sr : reset.sr = 0x00 := rfl
@[simp] theorem reset_presenceL : reset.presenceL = false := rfl
@[simp] theorem reset_vCnt : reset.vCnt = 0 := rfl
@[simp] theorem reset_sync : reset.sync = List.replicate Config.syncClks true := rfl
@[simp] theorem reset_dqOe : reset.dqOe = false := rfl
@[simp] theorem reset_viol : reset.viol = false := rfl
@[simp] theorem reset_rstN : reset.rstN = true := rfl
@[simp] theorem reset_hRdata : reset.hRdata = 0x00000000 := rfl
@[simp] theorem reset_inputs : reset.inputs = [] := rfl
@[simp] theorem reset_draws : reset.draws = 0 := rfl

@[simp] theorem raiseErrCmd_ieDone (s : State) : s.raiseErrCmd.ieDone = s.ieDone := rfl
@[simp] theorem raiseErrCmd_ieErr (s : State) : s.raiseErrCmd.ieErr = s.ieErr := rfl
@[simp] theorem raiseErrCmd_rangeEn (s : State) : s.raiseErrCmd.rangeEn = s.rangeEn := rfl
@[simp] theorem raiseErrCmd_busy (s : State) : s.raiseErrCmd.busy = s.busy := rfl
@[simp] theorem raiseErrCmd_done (s : State) : s.raiseErrCmd.done = s.done := rfl
@[simp] theorem raiseErrCmd_errCmd (s : State) : s.raiseErrCmd.errCmd = true := rfl
@[simp] theorem raiseErrCmd_errBusy (s : State) : s.raiseErrCmd.errBusy = s.errBusy := rfl
@[simp] theorem raiseErrCmd_presence (s : State) : s.raiseErrCmd.presence = s.presence := rfl
@[simp] theorem raiseErrCmd_crcOk (s : State) : s.raiseErrCmd.crcOk = s.crcOk := rfl
@[simp] theorem raiseErrCmd_valid (s : State) : s.raiseErrCmd.valid = s.valid := rfl
@[simp] theorem raiseErrCmd_result (s : State) : s.raiseErrCmd.result = s.result := rfl
@[simp] theorem raiseErrCmd_rxdata (s : State) : s.raiseErrCmd.rxdata = s.rxdata := rfl
@[simp] theorem raiseErrCmd_crcCalc (s : State) : s.raiseErrCmd.crcCalc = s.crcCalc := rfl
@[simp] theorem raiseErrCmd_sp (s : State) : s.raiseErrCmd.sp = s.sp := rfl
@[simp] theorem raiseErrCmd_rangeLo (s : State) : s.raiseErrCmd.rangeLo = s.rangeLo := rfl
@[simp] theorem raiseErrCmd_rangeHi (s : State) : s.raiseErrCmd.rangeHi = s.rangeHi := rfl
@[simp] theorem raiseErrCmd_curOp (s : State) : s.raiseErrCmd.curOp = s.curOp := rfl
@[simp] theorem raiseErrCmd_curData (s : State) : s.raiseErrCmd.curData = s.curData := rfl
@[simp] theorem raiseErrCmd_rangeEnL (s : State) : s.raiseErrCmd.rangeEnL = s.rangeEnL := rfl
@[simp] theorem raiseErrCmd_slotIdx (s : State) : s.raiseErrCmd.slotIdx = s.slotIdx := rfl
@[simp] theorem raiseErrCmd_tUs (s : State) : s.raiseErrCmd.tUs = s.tUs := rfl
@[simp] theorem raiseErrCmd_pre (s : State) : s.raiseErrCmd.pre = s.pre := rfl
@[simp] theorem raiseErrCmd_sr (s : State) : s.raiseErrCmd.sr = s.sr := rfl
@[simp] theorem raiseErrCmd_presenceL (s : State) : s.raiseErrCmd.presenceL = s.presenceL := rfl
@[simp] theorem raiseErrCmd_vCnt (s : State) : s.raiseErrCmd.vCnt = s.vCnt := rfl
@[simp] theorem raiseErrCmd_sync (s : State) : s.raiseErrCmd.sync = s.sync := rfl
@[simp] theorem raiseErrCmd_dqOe (s : State) : s.raiseErrCmd.dqOe = s.dqOe := rfl
@[simp] theorem raiseErrCmd_viol (s : State) : s.raiseErrCmd.viol = s.viol := rfl
@[simp] theorem raiseErrCmd_rstN (s : State) : s.raiseErrCmd.rstN = s.rstN := rfl
@[simp] theorem raiseErrCmd_hRdata (s : State) : s.raiseErrCmd.hRdata = s.hRdata := rfl
@[simp] theorem raiseErrCmd_inputs (s : State) : s.raiseErrCmd.inputs = s.inputs := rfl
@[simp] theorem raiseErrCmd_draws (s : State) : s.raiseErrCmd.draws = s.draws := rfl

@[simp] theorem raiseErrBusy_ieDone (s : State) : s.raiseErrBusy.ieDone = s.ieDone := rfl
@[simp] theorem raiseErrBusy_ieErr (s : State) : s.raiseErrBusy.ieErr = s.ieErr := rfl
@[simp] theorem raiseErrBusy_rangeEn (s : State) : s.raiseErrBusy.rangeEn = s.rangeEn := rfl
@[simp] theorem raiseErrBusy_busy (s : State) : s.raiseErrBusy.busy = s.busy := rfl
@[simp] theorem raiseErrBusy_done (s : State) : s.raiseErrBusy.done = s.done := rfl
@[simp] theorem raiseErrBusy_errCmd (s : State) : s.raiseErrBusy.errCmd = s.errCmd := rfl
@[simp] theorem raiseErrBusy_errBusy (s : State) : s.raiseErrBusy.errBusy = true := rfl
@[simp] theorem raiseErrBusy_presence (s : State) : s.raiseErrBusy.presence = s.presence := rfl
@[simp] theorem raiseErrBusy_crcOk (s : State) : s.raiseErrBusy.crcOk = s.crcOk := rfl
@[simp] theorem raiseErrBusy_valid (s : State) : s.raiseErrBusy.valid = s.valid := rfl
@[simp] theorem raiseErrBusy_result (s : State) : s.raiseErrBusy.result = s.result := rfl
@[simp] theorem raiseErrBusy_rxdata (s : State) : s.raiseErrBusy.rxdata = s.rxdata := rfl
@[simp] theorem raiseErrBusy_crcCalc (s : State) : s.raiseErrBusy.crcCalc = s.crcCalc := rfl
@[simp] theorem raiseErrBusy_sp (s : State) : s.raiseErrBusy.sp = s.sp := rfl
@[simp] theorem raiseErrBusy_rangeLo (s : State) : s.raiseErrBusy.rangeLo = s.rangeLo := rfl
@[simp] theorem raiseErrBusy_rangeHi (s : State) : s.raiseErrBusy.rangeHi = s.rangeHi := rfl
@[simp] theorem raiseErrBusy_curOp (s : State) : s.raiseErrBusy.curOp = s.curOp := rfl
@[simp] theorem raiseErrBusy_curData (s : State) : s.raiseErrBusy.curData = s.curData := rfl
@[simp] theorem raiseErrBusy_rangeEnL (s : State) : s.raiseErrBusy.rangeEnL = s.rangeEnL := rfl
@[simp] theorem raiseErrBusy_slotIdx (s : State) : s.raiseErrBusy.slotIdx = s.slotIdx := rfl
@[simp] theorem raiseErrBusy_tUs (s : State) : s.raiseErrBusy.tUs = s.tUs := rfl
@[simp] theorem raiseErrBusy_pre (s : State) : s.raiseErrBusy.pre = s.pre := rfl
@[simp] theorem raiseErrBusy_sr (s : State) : s.raiseErrBusy.sr = s.sr := rfl
@[simp] theorem raiseErrBusy_presenceL (s : State) : s.raiseErrBusy.presenceL = s.presenceL := rfl
@[simp] theorem raiseErrBusy_vCnt (s : State) : s.raiseErrBusy.vCnt = s.vCnt := rfl
@[simp] theorem raiseErrBusy_sync (s : State) : s.raiseErrBusy.sync = s.sync := rfl
@[simp] theorem raiseErrBusy_dqOe (s : State) : s.raiseErrBusy.dqOe = s.dqOe := rfl
@[simp] theorem raiseErrBusy_viol (s : State) : s.raiseErrBusy.viol = s.viol := rfl
@[simp] theorem raiseErrBusy_rstN (s : State) : s.raiseErrBusy.rstN = s.rstN := rfl
@[simp] theorem raiseErrBusy_hRdata (s : State) : s.raiseErrBusy.hRdata = s.hRdata := rfl
@[simp] theorem raiseErrBusy_inputs (s : State) : s.raiseErrBusy.inputs = s.inputs := rfl
@[simp] theorem raiseErrBusy_draws (s : State) : s.raiseErrBusy.draws = s.draws := rfl

@[simp] theorem clearVerdict_ieDone (s : State) : s.clearVerdict.ieDone = s.ieDone := rfl
@[simp] theorem clearVerdict_ieErr (s : State) : s.clearVerdict.ieErr = s.ieErr := rfl
@[simp] theorem clearVerdict_rangeEn (s : State) : s.clearVerdict.rangeEn = s.rangeEn := rfl
@[simp] theorem clearVerdict_busy (s : State) : s.clearVerdict.busy = s.busy := rfl
@[simp] theorem clearVerdict_done (s : State) : s.clearVerdict.done = s.done := rfl
@[simp] theorem clearVerdict_errCmd (s : State) : s.clearVerdict.errCmd = s.errCmd := rfl
@[simp] theorem clearVerdict_errBusy (s : State) : s.clearVerdict.errBusy = s.errBusy := rfl
@[simp] theorem clearVerdict_presence (s : State) : s.clearVerdict.presence = s.presence := rfl
@[simp] theorem clearVerdict_crcOk (s : State) : s.clearVerdict.crcOk = false := rfl
@[simp] theorem clearVerdict_valid (s : State) : s.clearVerdict.valid = false := rfl
@[simp] theorem clearVerdict_result (s : State) : s.clearVerdict.result = .none := rfl
@[simp] theorem clearVerdict_rxdata (s : State) : s.clearVerdict.rxdata = s.rxdata := rfl
@[simp] theorem clearVerdict_crcCalc (s : State) : s.clearVerdict.crcCalc = s.crcCalc := rfl
@[simp] theorem clearVerdict_sp (s : State) : s.clearVerdict.sp = s.sp := rfl
@[simp] theorem clearVerdict_rangeLo (s : State) : s.clearVerdict.rangeLo = s.rangeLo := rfl
@[simp] theorem clearVerdict_rangeHi (s : State) : s.clearVerdict.rangeHi = s.rangeHi := rfl
@[simp] theorem clearVerdict_curOp (s : State) : s.clearVerdict.curOp = s.curOp := rfl
@[simp] theorem clearVerdict_curData (s : State) : s.clearVerdict.curData = s.curData := rfl
@[simp] theorem clearVerdict_rangeEnL (s : State) : s.clearVerdict.rangeEnL = s.rangeEnL := rfl
@[simp] theorem clearVerdict_slotIdx (s : State) : s.clearVerdict.slotIdx = s.slotIdx := rfl
@[simp] theorem clearVerdict_tUs (s : State) : s.clearVerdict.tUs = s.tUs := rfl
@[simp] theorem clearVerdict_pre (s : State) : s.clearVerdict.pre = s.pre := rfl
@[simp] theorem clearVerdict_sr (s : State) : s.clearVerdict.sr = s.sr := rfl
@[simp] theorem clearVerdict_presenceL (s : State) : s.clearVerdict.presenceL = s.presenceL := rfl
@[simp] theorem clearVerdict_vCnt (s : State) : s.clearVerdict.vCnt = s.vCnt := rfl
@[simp] theorem clearVerdict_sync (s : State) : s.clearVerdict.sync = s.sync := rfl
@[simp] theorem clearVerdict_dqOe (s : State) : s.clearVerdict.dqOe = s.dqOe := rfl
@[simp] theorem clearVerdict_viol (s : State) : s.clearVerdict.viol = s.viol := rfl
@[simp] theorem clearVerdict_rstN (s : State) : s.clearVerdict.rstN = s.rstN := rfl
@[simp] theorem clearVerdict_hRdata (s : State) : s.clearVerdict.hRdata = s.hRdata := rfl
@[simp] theorem clearVerdict_inputs (s : State) : s.clearVerdict.inputs = s.inputs := rfl
@[simp] theorem clearVerdict_draws (s : State) : s.clearVerdict.draws = s.draws := rfl

@[simp] theorem clearSticky_ieDone (s : State) (v : Word) : (s.clearSticky v).ieDone = s.ieDone := rfl
@[simp] theorem clearSticky_ieErr (s : State) (v : Word) : (s.clearSticky v).ieErr = s.ieErr := rfl
@[simp] theorem clearSticky_rangeEn (s : State) (v : Word) : (s.clearSticky v).rangeEn = s.rangeEn := rfl
@[simp] theorem clearSticky_busy (s : State) (v : Word) : (s.clearSticky v).busy = s.busy := rfl
@[simp] theorem clearSticky_done (s : State) (v : Word) : (s.clearSticky v).done = (s.done && !v.getLsbD 1) := rfl
@[simp] theorem clearSticky_errCmd (s : State) (v : Word) : (s.clearSticky v).errCmd = (s.errCmd && !v.getLsbD 2) := rfl
@[simp] theorem clearSticky_errBusy (s : State) (v : Word) : (s.clearSticky v).errBusy = (s.errBusy && !v.getLsbD 3) := rfl
@[simp] theorem clearSticky_presence (s : State) (v : Word) : (s.clearSticky v).presence = s.presence := rfl
@[simp] theorem clearSticky_crcOk (s : State) (v : Word) : (s.clearSticky v).crcOk = s.crcOk := rfl
@[simp] theorem clearSticky_valid (s : State) (v : Word) : (s.clearSticky v).valid = s.valid := rfl
@[simp] theorem clearSticky_result (s : State) (v : Word) : (s.clearSticky v).result = s.result := rfl
@[simp] theorem clearSticky_rxdata (s : State) (v : Word) : (s.clearSticky v).rxdata = s.rxdata := rfl
@[simp] theorem clearSticky_crcCalc (s : State) (v : Word) : (s.clearSticky v).crcCalc = s.crcCalc := rfl
@[simp] theorem clearSticky_sp (s : State) (v : Word) : (s.clearSticky v).sp = s.sp := rfl
@[simp] theorem clearSticky_rangeLo (s : State) (v : Word) : (s.clearSticky v).rangeLo = s.rangeLo := rfl
@[simp] theorem clearSticky_rangeHi (s : State) (v : Word) : (s.clearSticky v).rangeHi = s.rangeHi := rfl
@[simp] theorem clearSticky_curOp (s : State) (v : Word) : (s.clearSticky v).curOp = s.curOp := rfl
@[simp] theorem clearSticky_curData (s : State) (v : Word) : (s.clearSticky v).curData = s.curData := rfl
@[simp] theorem clearSticky_rangeEnL (s : State) (v : Word) : (s.clearSticky v).rangeEnL = s.rangeEnL := rfl
@[simp] theorem clearSticky_slotIdx (s : State) (v : Word) : (s.clearSticky v).slotIdx = s.slotIdx := rfl
@[simp] theorem clearSticky_tUs (s : State) (v : Word) : (s.clearSticky v).tUs = s.tUs := rfl
@[simp] theorem clearSticky_pre (s : State) (v : Word) : (s.clearSticky v).pre = s.pre := rfl
@[simp] theorem clearSticky_sr (s : State) (v : Word) : (s.clearSticky v).sr = s.sr := rfl
@[simp] theorem clearSticky_presenceL (s : State) (v : Word) : (s.clearSticky v).presenceL = s.presenceL := rfl
@[simp] theorem clearSticky_vCnt (s : State) (v : Word) : (s.clearSticky v).vCnt = s.vCnt := rfl
@[simp] theorem clearSticky_sync (s : State) (v : Word) : (s.clearSticky v).sync = s.sync := rfl
@[simp] theorem clearSticky_dqOe (s : State) (v : Word) : (s.clearSticky v).dqOe = s.dqOe := rfl
@[simp] theorem clearSticky_viol (s : State) (v : Word) : (s.clearSticky v).viol = s.viol := rfl
@[simp] theorem clearSticky_rstN (s : State) (v : Word) : (s.clearSticky v).rstN = s.rstN := rfl
@[simp] theorem clearSticky_hRdata (s : State) (v : Word) : (s.clearSticky v).hRdata = s.hRdata := rfl
@[simp] theorem clearSticky_inputs (s : State) (v : Word) : (s.clearSticky v).inputs = s.inputs := rfl
@[simp] theorem clearSticky_draws (s : State) (v : Word) : (s.clearSticky v).draws = s.draws := rfl

@[simp] theorem drive_ieDone (s : State) : s.drive.ieDone = s.ieDone := rfl
@[simp] theorem drive_ieErr (s : State) : s.drive.ieErr = s.ieErr := rfl
@[simp] theorem drive_rangeEn (s : State) : s.drive.rangeEn = s.rangeEn := rfl
@[simp] theorem drive_busy (s : State) : s.drive.busy = s.busy := rfl
@[simp] theorem drive_done (s : State) : s.drive.done = s.done := rfl
@[simp] theorem drive_errCmd (s : State) : s.drive.errCmd = s.errCmd := rfl
@[simp] theorem drive_errBusy (s : State) : s.drive.errBusy = s.errBusy := rfl
@[simp] theorem drive_presence (s : State) : s.drive.presence = s.presence := rfl
@[simp] theorem drive_crcOk (s : State) : s.drive.crcOk = s.crcOk := rfl
@[simp] theorem drive_valid (s : State) : s.drive.valid = s.valid := rfl
@[simp] theorem drive_result (s : State) : s.drive.result = s.result := rfl
@[simp] theorem drive_rxdata (s : State) : s.drive.rxdata = s.rxdata := rfl
@[simp] theorem drive_crcCalc (s : State) : s.drive.crcCalc = s.crcCalc := rfl
@[simp] theorem drive_sp (s : State) : s.drive.sp = s.sp := rfl
@[simp] theorem drive_rangeLo (s : State) : s.drive.rangeLo = s.rangeLo := rfl
@[simp] theorem drive_rangeHi (s : State) : s.drive.rangeHi = s.rangeHi := rfl
@[simp] theorem drive_curOp (s : State) : s.drive.curOp = s.curOp := rfl
@[simp] theorem drive_curData (s : State) : s.drive.curData = s.curData := rfl
@[simp] theorem drive_rangeEnL (s : State) : s.drive.rangeEnL = s.rangeEnL := rfl
@[simp] theorem drive_slotIdx (s : State) : s.drive.slotIdx = s.slotIdx := rfl
@[simp] theorem drive_tUs (s : State) : s.drive.tUs = s.tUs := rfl
@[simp] theorem drive_pre (s : State) : s.drive.pre = s.pre := rfl
@[simp] theorem drive_sr (s : State) : s.drive.sr = s.sr := rfl
@[simp] theorem drive_presenceL (s : State) : s.drive.presenceL = s.presenceL := rfl
@[simp] theorem drive_vCnt (s : State) : s.drive.vCnt = s.vCnt := rfl
@[simp] theorem drive_sync (s : State) : s.drive.sync = s.sync := rfl
@[simp] theorem drive_dqOe (s : State) : s.drive.dqOe = s.lowPhase := rfl
@[simp] theorem drive_viol (s : State) : s.drive.viol = s.viol := rfl
@[simp] theorem drive_rstN (s : State) : s.drive.rstN = s.rstN := rfl
@[simp] theorem drive_hRdata (s : State) : s.drive.hRdata = s.hRdata := rfl
@[simp] theorem drive_inputs (s : State) : s.drive.inputs = s.inputs := rfl
@[simp] theorem drive_draws (s : State) : s.drive.draws = s.draws := rfl

@[simp] theorem accept_ieDone (s : State) (op : Op) (data : Byte) : (s.accept op data).ieDone = s.ieDone := rfl
@[simp] theorem accept_ieErr (s : State) (op : Op) (data : Byte) : (s.accept op data).ieErr = s.ieErr := rfl
@[simp] theorem accept_rangeEn (s : State) (op : Op) (data : Byte) : (s.accept op data).rangeEn = s.rangeEn := rfl
@[simp] theorem accept_busy (s : State) (op : Op) (data : Byte) : (s.accept op data).busy = true := rfl
@[simp] theorem accept_done (s : State) (op : Op) (data : Byte) : (s.accept op data).done = false := rfl
@[simp] theorem accept_errCmd (s : State) (op : Op) (data : Byte) : (s.accept op data).errCmd = s.errCmd := rfl
@[simp] theorem accept_errBusy (s : State) (op : Op) (data : Byte) : (s.accept op data).errBusy = s.errBusy := rfl
@[simp] theorem accept_presence (s : State) (op : Op) (data : Byte) : (s.accept op data).presence = s.presence := rfl
@[simp] theorem accept_crcOk (s : State) (op : Op) (data : Byte) : (s.accept op data).crcOk = s.crcOk := rfl
@[simp] theorem accept_valid (s : State) (op : Op) (data : Byte) : (s.accept op data).valid = s.valid := rfl
@[simp] theorem accept_result (s : State) (op : Op) (data : Byte) : (s.accept op data).result = s.result := rfl
@[simp] theorem accept_rxdata (s : State) (op : Op) (data : Byte) : (s.accept op data).rxdata = s.rxdata := rfl
@[simp] theorem accept_crcCalc (s : State) (op : Op) (data : Byte) : (s.accept op data).crcCalc = s.crcCalc := rfl
@[simp] theorem accept_sp (s : State) (op : Op) (data : Byte) : (s.accept op data).sp = s.sp := rfl
@[simp] theorem accept_rangeLo (s : State) (op : Op) (data : Byte) : (s.accept op data).rangeLo = s.rangeLo := rfl
@[simp] theorem accept_rangeHi (s : State) (op : Op) (data : Byte) : (s.accept op data).rangeHi = s.rangeHi := rfl
@[simp] theorem accept_curOp (s : State) (op : Op) (data : Byte) : (s.accept op data).curOp = op := rfl
@[simp] theorem accept_curData (s : State) (op : Op) (data : Byte) : (s.accept op data).curData = data := rfl
@[simp] theorem accept_rangeEnL (s : State) (op : Op) (data : Byte) : (s.accept op data).rangeEnL = s.rangeEn := rfl
@[simp] theorem accept_slotIdx (s : State) (op : Op) (data : Byte) : (s.accept op data).slotIdx = 0 := rfl
@[simp] theorem accept_tUs (s : State) (op : Op) (data : Byte) : (s.accept op data).tUs = 0 := rfl
@[simp] theorem accept_pre (s : State) (op : Op) (data : Byte) : (s.accept op data).pre = 0 := rfl
@[simp] theorem accept_sr (s : State) (op : Op) (data : Byte) : (s.accept op data).sr = 0x00#8 := rfl
@[simp] theorem accept_presenceL (s : State) (op : Op) (data : Byte) : (s.accept op data).presenceL = s.presenceL := rfl
@[simp] theorem accept_vCnt (s : State) (op : Op) (data : Byte) : (s.accept op data).vCnt = 0 := rfl
@[simp] theorem accept_sync (s : State) (op : Op) (data : Byte) : (s.accept op data).sync = s.sync := rfl
@[simp] theorem accept_viol (s : State) (op : Op) (data : Byte) : (s.accept op data).viol = s.viol := rfl
@[simp] theorem accept_rstN (s : State) (op : Op) (data : Byte) : (s.accept op data).rstN = s.rstN := rfl
@[simp] theorem accept_hRdata (s : State) (op : Op) (data : Byte) : (s.accept op data).hRdata = s.hRdata := rfl
@[simp] theorem accept_inputs (s : State) (op : Op) (data : Byte) : (s.accept op data).inputs = s.inputs := rfl
@[simp] theorem accept_draws (s : State) (op : Op) (data : Byte) : (s.accept op data).draws = s.draws := rfl

@[simp] theorem finish_ieDone (s : State) : s.finish.ieDone = s.ieDone := rfl
@[simp] theorem finish_ieErr (s : State) : s.finish.ieErr = s.ieErr := rfl
@[simp] theorem finish_rangeEn (s : State) : s.finish.rangeEn = s.rangeEn := rfl
@[simp] theorem finish_busy (s : State) : s.finish.busy = false := rfl
@[simp] theorem finish_done (s : State) : s.finish.done = true := rfl
@[simp] theorem finish_errCmd (s : State) : s.finish.errCmd = s.errCmd := rfl
@[simp] theorem finish_errBusy (s : State) : s.finish.errBusy = s.errBusy := rfl
@[simp] theorem finish_presence (s : State) : s.finish.presence = s.presence := rfl
@[simp] theorem finish_crcOk (s : State) : s.finish.crcOk = s.crcOk := rfl
@[simp] theorem finish_valid (s : State) : s.finish.valid = s.valid := rfl
@[simp] theorem finish_result (s : State) : s.finish.result = s.result := rfl
@[simp] theorem finish_rxdata (s : State) : s.finish.rxdata = s.rxdata := rfl
@[simp] theorem finish_crcCalc (s : State) : s.finish.crcCalc = s.crcCalc := rfl
@[simp] theorem finish_sp (s : State) : s.finish.sp = s.sp := rfl
@[simp] theorem finish_rangeLo (s : State) : s.finish.rangeLo = s.rangeLo := rfl
@[simp] theorem finish_rangeHi (s : State) : s.finish.rangeHi = s.rangeHi := rfl
@[simp] theorem finish_curOp (s : State) : s.finish.curOp = .idle := rfl
@[simp] theorem finish_curData (s : State) : s.finish.curData = s.curData := rfl
@[simp] theorem finish_rangeEnL (s : State) : s.finish.rangeEnL = s.rangeEnL := rfl
@[simp] theorem finish_slotIdx (s : State) : s.finish.slotIdx = 0 := rfl
@[simp] theorem finish_tUs (s : State) : s.finish.tUs = 0 := rfl
@[simp] theorem finish_pre (s : State) : s.finish.pre = s.pre := rfl
@[simp] theorem finish_sr (s : State) : s.finish.sr = s.sr := rfl
@[simp] theorem finish_presenceL (s : State) : s.finish.presenceL = s.presenceL := rfl
@[simp] theorem finish_vCnt (s : State) : s.finish.vCnt = s.vCnt := rfl
@[simp] theorem finish_sync (s : State) : s.finish.sync = s.sync := rfl
@[simp] theorem finish_dqOe (s : State) : s.finish.dqOe = false := rfl
@[simp] theorem finish_viol (s : State) : s.finish.viol = s.viol := rfl
@[simp] theorem finish_rstN (s : State) : s.finish.rstN = s.rstN := rfl
@[simp] theorem finish_hRdata (s : State) : s.finish.hRdata = s.hRdata := rfl
@[simp] theorem finish_inputs (s : State) : s.finish.inputs = s.inputs := rfl
@[simp] theorem finish_draws (s : State) : s.finish.draws = s.draws := rfl

@[simp] theorem setSp_ieDone (s : State) (j : Nat) (b : Byte) : (s.setSp j b).ieDone = s.ieDone := rfl
@[simp] theorem setSp_ieErr (s : State) (j : Nat) (b : Byte) : (s.setSp j b).ieErr = s.ieErr := rfl
@[simp] theorem setSp_rangeEn (s : State) (j : Nat) (b : Byte) : (s.setSp j b).rangeEn = s.rangeEn := rfl
@[simp] theorem setSp_busy (s : State) (j : Nat) (b : Byte) : (s.setSp j b).busy = s.busy := rfl
@[simp] theorem setSp_done (s : State) (j : Nat) (b : Byte) : (s.setSp j b).done = s.done := rfl
@[simp] theorem setSp_errCmd (s : State) (j : Nat) (b : Byte) : (s.setSp j b).errCmd = s.errCmd := rfl
@[simp] theorem setSp_errBusy (s : State) (j : Nat) (b : Byte) : (s.setSp j b).errBusy = s.errBusy := rfl
@[simp] theorem setSp_presence (s : State) (j : Nat) (b : Byte) : (s.setSp j b).presence = s.presence := rfl
@[simp] theorem setSp_crcOk (s : State) (j : Nat) (b : Byte) : (s.setSp j b).crcOk = s.crcOk := rfl
@[simp] theorem setSp_valid (s : State) (j : Nat) (b : Byte) : (s.setSp j b).valid = s.valid := rfl
@[simp] theorem setSp_result (s : State) (j : Nat) (b : Byte) : (s.setSp j b).result = s.result := rfl
@[simp] theorem setSp_rxdata (s : State) (j : Nat) (b : Byte) : (s.setSp j b).rxdata = s.rxdata := rfl
@[simp] theorem setSp_crcCalc (s : State) (j : Nat) (b : Byte) : (s.setSp j b).crcCalc = s.crcCalc := rfl
@[simp] theorem setSp_sp (s : State) (j : Nat) (b : Byte) : (s.setSp j b).sp = s.sp.setIfInBounds j b := rfl
@[simp] theorem setSp_rangeLo (s : State) (j : Nat) (b : Byte) : (s.setSp j b).rangeLo = s.rangeLo := rfl
@[simp] theorem setSp_rangeHi (s : State) (j : Nat) (b : Byte) : (s.setSp j b).rangeHi = s.rangeHi := rfl
@[simp] theorem setSp_curOp (s : State) (j : Nat) (b : Byte) : (s.setSp j b).curOp = s.curOp := rfl
@[simp] theorem setSp_curData (s : State) (j : Nat) (b : Byte) : (s.setSp j b).curData = s.curData := rfl
@[simp] theorem setSp_rangeEnL (s : State) (j : Nat) (b : Byte) : (s.setSp j b).rangeEnL = s.rangeEnL := rfl
@[simp] theorem setSp_slotIdx (s : State) (j : Nat) (b : Byte) : (s.setSp j b).slotIdx = s.slotIdx := rfl
@[simp] theorem setSp_tUs (s : State) (j : Nat) (b : Byte) : (s.setSp j b).tUs = s.tUs := rfl
@[simp] theorem setSp_pre (s : State) (j : Nat) (b : Byte) : (s.setSp j b).pre = s.pre := rfl
@[simp] theorem setSp_sr (s : State) (j : Nat) (b : Byte) : (s.setSp j b).sr = s.sr := rfl
@[simp] theorem setSp_presenceL (s : State) (j : Nat) (b : Byte) : (s.setSp j b).presenceL = s.presenceL := rfl
@[simp] theorem setSp_vCnt (s : State) (j : Nat) (b : Byte) : (s.setSp j b).vCnt = s.vCnt := rfl
@[simp] theorem setSp_sync (s : State) (j : Nat) (b : Byte) : (s.setSp j b).sync = s.sync := rfl
@[simp] theorem setSp_dqOe (s : State) (j : Nat) (b : Byte) : (s.setSp j b).dqOe = s.dqOe := rfl
@[simp] theorem setSp_viol (s : State) (j : Nat) (b : Byte) : (s.setSp j b).viol = s.viol := rfl
@[simp] theorem setSp_rstN (s : State) (j : Nat) (b : Byte) : (s.setSp j b).rstN = s.rstN := rfl
@[simp] theorem setSp_hRdata (s : State) (j : Nat) (b : Byte) : (s.setSp j b).hRdata = s.hRdata := rfl
@[simp] theorem setSp_inputs (s : State) (j : Nat) (b : Byte) : (s.setSp j b).inputs = s.inputs := rfl
@[simp] theorem setSp_draws (s : State) (j : Nat) (b : Byte) : (s.setSp j b).draws = s.draws := rfl

@[simp] theorem resetBlock_ieDone (s : State) : s.resetBlock.ieDone = reset.ieDone := rfl
@[simp] theorem resetBlock_ieErr (s : State) : s.resetBlock.ieErr = reset.ieErr := rfl
@[simp] theorem resetBlock_rangeEn (s : State) : s.resetBlock.rangeEn = reset.rangeEn := rfl
@[simp] theorem resetBlock_busy (s : State) : s.resetBlock.busy = reset.busy := rfl
@[simp] theorem resetBlock_done (s : State) : s.resetBlock.done = reset.done := rfl
@[simp] theorem resetBlock_errCmd (s : State) : s.resetBlock.errCmd = reset.errCmd := rfl
@[simp] theorem resetBlock_errBusy (s : State) : s.resetBlock.errBusy = reset.errBusy := rfl
@[simp] theorem resetBlock_presence (s : State) : s.resetBlock.presence = reset.presence := rfl
@[simp] theorem resetBlock_crcOk (s : State) : s.resetBlock.crcOk = reset.crcOk := rfl
@[simp] theorem resetBlock_valid (s : State) : s.resetBlock.valid = reset.valid := rfl
@[simp] theorem resetBlock_result (s : State) : s.resetBlock.result = reset.result := rfl
@[simp] theorem resetBlock_rxdata (s : State) : s.resetBlock.rxdata = reset.rxdata := rfl
@[simp] theorem resetBlock_crcCalc (s : State) : s.resetBlock.crcCalc = reset.crcCalc := rfl
@[simp] theorem resetBlock_sp (s : State) : s.resetBlock.sp = reset.sp := rfl
@[simp] theorem resetBlock_rangeLo (s : State) : s.resetBlock.rangeLo = reset.rangeLo := rfl
@[simp] theorem resetBlock_rangeHi (s : State) : s.resetBlock.rangeHi = reset.rangeHi := rfl
@[simp] theorem resetBlock_curOp (s : State) : s.resetBlock.curOp = reset.curOp := rfl
@[simp] theorem resetBlock_curData (s : State) : s.resetBlock.curData = reset.curData := rfl
@[simp] theorem resetBlock_rangeEnL (s : State) : s.resetBlock.rangeEnL = reset.rangeEnL := rfl
@[simp] theorem resetBlock_slotIdx (s : State) : s.resetBlock.slotIdx = reset.slotIdx := rfl
@[simp] theorem resetBlock_tUs (s : State) : s.resetBlock.tUs = reset.tUs := rfl
@[simp] theorem resetBlock_pre (s : State) : s.resetBlock.pre = reset.pre := rfl
@[simp] theorem resetBlock_sr (s : State) : s.resetBlock.sr = reset.sr := rfl
@[simp] theorem resetBlock_presenceL (s : State) : s.resetBlock.presenceL = reset.presenceL := rfl
@[simp] theorem resetBlock_vCnt (s : State) : s.resetBlock.vCnt = reset.vCnt := rfl
@[simp] theorem resetBlock_sync (s : State) : s.resetBlock.sync = reset.sync := rfl
@[simp] theorem resetBlock_dqOe (s : State) : s.resetBlock.dqOe = reset.dqOe := rfl
@[simp] theorem resetBlock_viol (s : State) : s.resetBlock.viol = s.viol := rfl
@[simp] theorem resetBlock_rstN (s : State) : s.resetBlock.rstN = s.rstN := rfl
@[simp] theorem resetBlock_hRdata (s : State) : s.resetBlock.hRdata = s.hRdata := rfl
@[simp] theorem resetBlock_inputs (s : State) : s.resetBlock.inputs = s.inputs := rfl
@[simp] theorem resetBlock_draws (s : State) : s.resetBlock.draws = s.draws := rfl

@[simp] theorem shiftSync_ieDone (s : State) (b : Bool) : (s.shiftSync b).ieDone = s.ieDone := rfl
@[simp] theorem shiftSync_ieErr (s : State) (b : Bool) : (s.shiftSync b).ieErr = s.ieErr := rfl
@[simp] theorem shiftSync_rangeEn (s : State) (b : Bool) : (s.shiftSync b).rangeEn = s.rangeEn := rfl
@[simp] theorem shiftSync_busy (s : State) (b : Bool) : (s.shiftSync b).busy = s.busy := rfl
@[simp] theorem shiftSync_done (s : State) (b : Bool) : (s.shiftSync b).done = s.done := rfl
@[simp] theorem shiftSync_errCmd (s : State) (b : Bool) : (s.shiftSync b).errCmd = s.errCmd := rfl
@[simp] theorem shiftSync_errBusy (s : State) (b : Bool) : (s.shiftSync b).errBusy = s.errBusy := rfl
@[simp] theorem shiftSync_presence (s : State) (b : Bool) : (s.shiftSync b).presence = s.presence := rfl
@[simp] theorem shiftSync_crcOk (s : State) (b : Bool) : (s.shiftSync b).crcOk = s.crcOk := rfl
@[simp] theorem shiftSync_valid (s : State) (b : Bool) : (s.shiftSync b).valid = s.valid := rfl
@[simp] theorem shiftSync_result (s : State) (b : Bool) : (s.shiftSync b).result = s.result := rfl
@[simp] theorem shiftSync_rxdata (s : State) (b : Bool) : (s.shiftSync b).rxdata = s.rxdata := rfl
@[simp] theorem shiftSync_crcCalc (s : State) (b : Bool) : (s.shiftSync b).crcCalc = s.crcCalc := rfl
@[simp] theorem shiftSync_sp (s : State) (b : Bool) : (s.shiftSync b).sp = s.sp := rfl
@[simp] theorem shiftSync_rangeLo (s : State) (b : Bool) : (s.shiftSync b).rangeLo = s.rangeLo := rfl
@[simp] theorem shiftSync_rangeHi (s : State) (b : Bool) : (s.shiftSync b).rangeHi = s.rangeHi := rfl
@[simp] theorem shiftSync_curOp (s : State) (b : Bool) : (s.shiftSync b).curOp = s.curOp := rfl
@[simp] theorem shiftSync_curData (s : State) (b : Bool) : (s.shiftSync b).curData = s.curData := rfl
@[simp] theorem shiftSync_rangeEnL (s : State) (b : Bool) : (s.shiftSync b).rangeEnL = s.rangeEnL := rfl
@[simp] theorem shiftSync_slotIdx (s : State) (b : Bool) : (s.shiftSync b).slotIdx = s.slotIdx := rfl
@[simp] theorem shiftSync_tUs (s : State) (b : Bool) : (s.shiftSync b).tUs = s.tUs := rfl
@[simp] theorem shiftSync_pre (s : State) (b : Bool) : (s.shiftSync b).pre = s.pre := rfl
@[simp] theorem shiftSync_sr (s : State) (b : Bool) : (s.shiftSync b).sr = s.sr := rfl
@[simp] theorem shiftSync_presenceL (s : State) (b : Bool) : (s.shiftSync b).presenceL = s.presenceL := rfl
@[simp] theorem shiftSync_vCnt (s : State) (b : Bool) : (s.shiftSync b).vCnt = s.vCnt := rfl
@[simp] theorem shiftSync_sync (s : State) (b : Bool) : (s.shiftSync b).sync = (b :: s.sync).dropLast := rfl
@[simp] theorem shiftSync_dqOe (s : State) (b : Bool) : (s.shiftSync b).dqOe = s.dqOe := rfl
@[simp] theorem shiftSync_viol (s : State) (b : Bool) : (s.shiftSync b).viol = s.viol := rfl
@[simp] theorem shiftSync_rstN (s : State) (b : Bool) : (s.shiftSync b).rstN = s.rstN := rfl
@[simp] theorem shiftSync_hRdata (s : State) (b : Bool) : (s.shiftSync b).hRdata = s.hRdata := rfl
@[simp] theorem shiftSync_inputs (s : State) (b : Bool) : (s.shiftSync b).inputs = s.inputs := rfl
@[simp] theorem shiftSync_draws (s : State) (b : Bool) : (s.shiftSync b).draws = s.draws := rfl

@[simp] theorem consume_ieDone (s : State) : s.consume.ieDone = s.ieDone := rfl
@[simp] theorem consume_ieErr (s : State) : s.consume.ieErr = s.ieErr := rfl
@[simp] theorem consume_rangeEn (s : State) : s.consume.rangeEn = s.rangeEn := rfl
@[simp] theorem consume_busy (s : State) : s.consume.busy = s.busy := rfl
@[simp] theorem consume_done (s : State) : s.consume.done = s.done := rfl
@[simp] theorem consume_errCmd (s : State) : s.consume.errCmd = s.errCmd := rfl
@[simp] theorem consume_errBusy (s : State) : s.consume.errBusy = s.errBusy := rfl
@[simp] theorem consume_presence (s : State) : s.consume.presence = s.presence := rfl
@[simp] theorem consume_crcOk (s : State) : s.consume.crcOk = s.crcOk := rfl
@[simp] theorem consume_valid (s : State) : s.consume.valid = s.valid := rfl
@[simp] theorem consume_result (s : State) : s.consume.result = s.result := rfl
@[simp] theorem consume_rxdata (s : State) : s.consume.rxdata = s.rxdata := rfl
@[simp] theorem consume_crcCalc (s : State) : s.consume.crcCalc = s.crcCalc := rfl
@[simp] theorem consume_sp (s : State) : s.consume.sp = s.sp := rfl
@[simp] theorem consume_rangeLo (s : State) : s.consume.rangeLo = s.rangeLo := rfl
@[simp] theorem consume_rangeHi (s : State) : s.consume.rangeHi = s.rangeHi := rfl
@[simp] theorem consume_curOp (s : State) : s.consume.curOp = s.curOp := rfl
@[simp] theorem consume_curData (s : State) : s.consume.curData = s.curData := rfl
@[simp] theorem consume_rangeEnL (s : State) : s.consume.rangeEnL = s.rangeEnL := rfl
@[simp] theorem consume_slotIdx (s : State) : s.consume.slotIdx = s.slotIdx := rfl
@[simp] theorem consume_tUs (s : State) : s.consume.tUs = s.tUs := rfl
@[simp] theorem consume_pre (s : State) : s.consume.pre = s.pre := rfl
@[simp] theorem consume_sr (s : State) : s.consume.sr = s.sr := rfl
@[simp] theorem consume_presenceL (s : State) : s.consume.presenceL = s.presenceL := rfl
@[simp] theorem consume_vCnt (s : State) : s.consume.vCnt = s.vCnt := rfl
@[simp] theorem consume_sync (s : State) : s.consume.sync = s.sync := rfl
@[simp] theorem consume_dqOe (s : State) : s.consume.dqOe = s.dqOe := rfl
@[simp] theorem consume_viol (s : State) : s.consume.viol = s.viol := rfl
@[simp] theorem consume_rstN (s : State) : s.consume.rstN = s.rstN := rfl
@[simp] theorem consume_hRdata (s : State) : s.consume.hRdata = s.hRdata := rfl
@[simp] theorem consume_inputs (s : State) : s.consume.inputs = s.inputs.tail := rfl
@[simp] theorem consume_draws (s : State) : s.consume.draws = s.draws := rfl

@[simp] theorem noteReserved_ieDone (s : State) (r : Reg) (v : Word) : (s.noteReserved r v).ieDone = s.ieDone := rfl
@[simp] theorem noteReserved_ieErr (s : State) (r : Reg) (v : Word) : (s.noteReserved r v).ieErr = s.ieErr := rfl
@[simp] theorem noteReserved_rangeEn (s : State) (r : Reg) (v : Word) : (s.noteReserved r v).rangeEn = s.rangeEn := rfl
@[simp] theorem noteReserved_busy (s : State) (r : Reg) (v : Word) : (s.noteReserved r v).busy = s.busy := rfl
@[simp] theorem noteReserved_done (s : State) (r : Reg) (v : Word) : (s.noteReserved r v).done = s.done := rfl
@[simp] theorem noteReserved_errCmd (s : State) (r : Reg) (v : Word) : (s.noteReserved r v).errCmd = s.errCmd := rfl
@[simp] theorem noteReserved_errBusy (s : State) (r : Reg) (v : Word) : (s.noteReserved r v).errBusy = s.errBusy := rfl
@[simp] theorem noteReserved_presence (s : State) (r : Reg) (v : Word) : (s.noteReserved r v).presence = s.presence := rfl
@[simp] theorem noteReserved_crcOk (s : State) (r : Reg) (v : Word) : (s.noteReserved r v).crcOk = s.crcOk := rfl
@[simp] theorem noteReserved_valid (s : State) (r : Reg) (v : Word) : (s.noteReserved r v).valid = s.valid := rfl
@[simp] theorem noteReserved_result (s : State) (r : Reg) (v : Word) : (s.noteReserved r v).result = s.result := rfl
@[simp] theorem noteReserved_rxdata (s : State) (r : Reg) (v : Word) : (s.noteReserved r v).rxdata = s.rxdata := rfl
@[simp] theorem noteReserved_crcCalc (s : State) (r : Reg) (v : Word) : (s.noteReserved r v).crcCalc = s.crcCalc := rfl
@[simp] theorem noteReserved_sp (s : State) (r : Reg) (v : Word) : (s.noteReserved r v).sp = s.sp := rfl
@[simp] theorem noteReserved_rangeLo (s : State) (r : Reg) (v : Word) : (s.noteReserved r v).rangeLo = s.rangeLo := rfl
@[simp] theorem noteReserved_rangeHi (s : State) (r : Reg) (v : Word) : (s.noteReserved r v).rangeHi = s.rangeHi := rfl
@[simp] theorem noteReserved_curOp (s : State) (r : Reg) (v : Word) : (s.noteReserved r v).curOp = s.curOp := rfl
@[simp] theorem noteReserved_curData (s : State) (r : Reg) (v : Word) : (s.noteReserved r v).curData = s.curData := rfl
@[simp] theorem noteReserved_rangeEnL (s : State) (r : Reg) (v : Word) : (s.noteReserved r v).rangeEnL = s.rangeEnL := rfl
@[simp] theorem noteReserved_slotIdx (s : State) (r : Reg) (v : Word) : (s.noteReserved r v).slotIdx = s.slotIdx := rfl
@[simp] theorem noteReserved_tUs (s : State) (r : Reg) (v : Word) : (s.noteReserved r v).tUs = s.tUs := rfl
@[simp] theorem noteReserved_pre (s : State) (r : Reg) (v : Word) : (s.noteReserved r v).pre = s.pre := rfl
@[simp] theorem noteReserved_sr (s : State) (r : Reg) (v : Word) : (s.noteReserved r v).sr = s.sr := rfl
@[simp] theorem noteReserved_presenceL (s : State) (r : Reg) (v : Word) : (s.noteReserved r v).presenceL = s.presenceL := rfl
@[simp] theorem noteReserved_vCnt (s : State) (r : Reg) (v : Word) : (s.noteReserved r v).vCnt = s.vCnt := rfl
@[simp] theorem noteReserved_sync (s : State) (r : Reg) (v : Word) : (s.noteReserved r v).sync = s.sync := rfl
@[simp] theorem noteReserved_dqOe (s : State) (r : Reg) (v : Word) : (s.noteReserved r v).dqOe = s.dqOe := rfl
@[simp] theorem noteReserved_viol (s : State) (r : Reg) (v : Word) : (s.noteReserved r v).viol = (s.viol || reservedSet r v) := rfl
@[simp] theorem noteReserved_rstN (s : State) (r : Reg) (v : Word) : (s.noteReserved r v).rstN = s.rstN := rfl
@[simp] theorem noteReserved_hRdata (s : State) (r : Reg) (v : Word) : (s.noteReserved r v).hRdata = s.hRdata := rfl
@[simp] theorem noteReserved_inputs (s : State) (r : Reg) (v : Word) : (s.noteReserved r v).inputs = s.inputs := rfl
@[simp] theorem noteReserved_draws (s : State) (r : Reg) (v : Word) : (s.noteReserved r v).draws = s.draws := rfl

@[simp] theorem writeRange_ieDone (s : State) (v : Word) : (s.writeRange v).ieDone = s.ieDone := rfl
@[simp] theorem writeRange_ieErr (s : State) (v : Word) : (s.writeRange v).ieErr = s.ieErr := rfl
@[simp] theorem writeRange_rangeEn (s : State) (v : Word) : (s.writeRange v).rangeEn = s.rangeEn := rfl
@[simp] theorem writeRange_busy (s : State) (v : Word) : (s.writeRange v).busy = s.busy := rfl
@[simp] theorem writeRange_done (s : State) (v : Word) : (s.writeRange v).done = s.done := rfl
@[simp] theorem writeRange_errCmd (s : State) (v : Word) : (s.writeRange v).errCmd = s.errCmd := rfl
@[simp] theorem writeRange_errBusy (s : State) (v : Word) : (s.writeRange v).errBusy = s.errBusy := rfl
@[simp] theorem writeRange_presence (s : State) (v : Word) : (s.writeRange v).presence = s.presence := rfl
@[simp] theorem writeRange_crcOk (s : State) (v : Word) : (s.writeRange v).crcOk = s.crcOk := rfl
@[simp] theorem writeRange_valid (s : State) (v : Word) : (s.writeRange v).valid = s.valid := rfl
@[simp] theorem writeRange_result (s : State) (v : Word) : (s.writeRange v).result = s.result := rfl
@[simp] theorem writeRange_rxdata (s : State) (v : Word) : (s.writeRange v).rxdata = s.rxdata := rfl
@[simp] theorem writeRange_crcCalc (s : State) (v : Word) : (s.writeRange v).crcCalc = s.crcCalc := rfl
@[simp] theorem writeRange_sp (s : State) (v : Word) : (s.writeRange v).sp = s.sp := rfl
@[simp] theorem writeRange_rangeLo (s : State) (v : Word) : (s.writeRange v).rangeLo = v.extractLsb' 0 16 := rfl
@[simp] theorem writeRange_rangeHi (s : State) (v : Word) : (s.writeRange v).rangeHi = v.extractLsb' 16 16 := rfl
@[simp] theorem writeRange_curOp (s : State) (v : Word) : (s.writeRange v).curOp = s.curOp := rfl
@[simp] theorem writeRange_curData (s : State) (v : Word) : (s.writeRange v).curData = s.curData := rfl
@[simp] theorem writeRange_rangeEnL (s : State) (v : Word) : (s.writeRange v).rangeEnL = s.rangeEnL := rfl
@[simp] theorem writeRange_slotIdx (s : State) (v : Word) : (s.writeRange v).slotIdx = s.slotIdx := rfl
@[simp] theorem writeRange_tUs (s : State) (v : Word) : (s.writeRange v).tUs = s.tUs := rfl
@[simp] theorem writeRange_pre (s : State) (v : Word) : (s.writeRange v).pre = s.pre := rfl
@[simp] theorem writeRange_sr (s : State) (v : Word) : (s.writeRange v).sr = s.sr := rfl
@[simp] theorem writeRange_presenceL (s : State) (v : Word) : (s.writeRange v).presenceL = s.presenceL := rfl
@[simp] theorem writeRange_vCnt (s : State) (v : Word) : (s.writeRange v).vCnt = s.vCnt := rfl
@[simp] theorem writeRange_sync (s : State) (v : Word) : (s.writeRange v).sync = s.sync := rfl
@[simp] theorem writeRange_dqOe (s : State) (v : Word) : (s.writeRange v).dqOe = s.dqOe := rfl
@[simp] theorem writeRange_viol (s : State) (v : Word) : (s.writeRange v).viol = s.viol := rfl
@[simp] theorem writeRange_rstN (s : State) (v : Word) : (s.writeRange v).rstN = s.rstN := rfl
@[simp] theorem writeRange_hRdata (s : State) (v : Word) : (s.writeRange v).hRdata = s.hRdata := rfl
@[simp] theorem writeRange_inputs (s : State) (v : Word) : (s.writeRange v).inputs = s.inputs := rfl
@[simp] theorem writeRange_draws (s : State) (v : Word) : (s.writeRange v).draws = s.draws := rfl

@[simp] theorem nextSlot_ieDone (s : State) : s.nextSlot.ieDone = s.ieDone := rfl
@[simp] theorem nextSlot_ieErr (s : State) : s.nextSlot.ieErr = s.ieErr := rfl
@[simp] theorem nextSlot_rangeEn (s : State) : s.nextSlot.rangeEn = s.rangeEn := rfl
@[simp] theorem nextSlot_busy (s : State) : s.nextSlot.busy = s.busy := rfl
@[simp] theorem nextSlot_done (s : State) : s.nextSlot.done = s.done := rfl
@[simp] theorem nextSlot_errCmd (s : State) : s.nextSlot.errCmd = s.errCmd := rfl
@[simp] theorem nextSlot_errBusy (s : State) : s.nextSlot.errBusy = s.errBusy := rfl
@[simp] theorem nextSlot_presence (s : State) : s.nextSlot.presence = s.presence := rfl
@[simp] theorem nextSlot_crcOk (s : State) : s.nextSlot.crcOk = s.crcOk := rfl
@[simp] theorem nextSlot_valid (s : State) : s.nextSlot.valid = s.valid := rfl
@[simp] theorem nextSlot_result (s : State) : s.nextSlot.result = s.result := rfl
@[simp] theorem nextSlot_rxdata (s : State) : s.nextSlot.rxdata = s.rxdata := rfl
@[simp] theorem nextSlot_crcCalc (s : State) : s.nextSlot.crcCalc = s.crcCalc := rfl
@[simp] theorem nextSlot_sp (s : State) : s.nextSlot.sp = s.sp := rfl
@[simp] theorem nextSlot_rangeLo (s : State) : s.nextSlot.rangeLo = s.rangeLo := rfl
@[simp] theorem nextSlot_rangeHi (s : State) : s.nextSlot.rangeHi = s.rangeHi := rfl
@[simp] theorem nextSlot_curOp (s : State) : s.nextSlot.curOp = s.curOp := rfl
@[simp] theorem nextSlot_curData (s : State) : s.nextSlot.curData = s.curData := rfl
@[simp] theorem nextSlot_rangeEnL (s : State) : s.nextSlot.rangeEnL = s.rangeEnL := rfl
@[simp] theorem nextSlot_slotIdx (s : State) : s.nextSlot.slotIdx = s.slotIdx + 1 := rfl
@[simp] theorem nextSlot_tUs (s : State) : s.nextSlot.tUs = 0 := rfl
@[simp] theorem nextSlot_pre (s : State) : s.nextSlot.pre = s.pre := rfl
@[simp] theorem nextSlot_sr (s : State) : s.nextSlot.sr = s.sr := rfl
@[simp] theorem nextSlot_presenceL (s : State) : s.nextSlot.presenceL = s.presenceL := rfl
@[simp] theorem nextSlot_vCnt (s : State) : s.nextSlot.vCnt = s.vCnt := rfl
@[simp] theorem nextSlot_sync (s : State) : s.nextSlot.sync = s.sync := rfl
@[simp] theorem nextSlot_dqOe (s : State) : s.nextSlot.dqOe = s.dqOe := rfl
@[simp] theorem nextSlot_viol (s : State) : s.nextSlot.viol = s.viol := rfl
@[simp] theorem nextSlot_rstN (s : State) : s.nextSlot.rstN = s.rstN := rfl
@[simp] theorem nextSlot_hRdata (s : State) : s.nextSlot.hRdata = s.hRdata := rfl
@[simp] theorem nextSlot_inputs (s : State) : s.nextSlot.inputs = s.inputs := rfl
@[simp] theorem nextSlot_draws (s : State) : s.nextSlot.draws = s.draws := rfl

@[simp] theorem nextUs_ieDone (s : State) : s.nextUs.ieDone = s.ieDone := rfl
@[simp] theorem nextUs_ieErr (s : State) : s.nextUs.ieErr = s.ieErr := rfl
@[simp] theorem nextUs_rangeEn (s : State) : s.nextUs.rangeEn = s.rangeEn := rfl
@[simp] theorem nextUs_busy (s : State) : s.nextUs.busy = s.busy := rfl
@[simp] theorem nextUs_done (s : State) : s.nextUs.done = s.done := rfl
@[simp] theorem nextUs_errCmd (s : State) : s.nextUs.errCmd = s.errCmd := rfl
@[simp] theorem nextUs_errBusy (s : State) : s.nextUs.errBusy = s.errBusy := rfl
@[simp] theorem nextUs_presence (s : State) : s.nextUs.presence = s.presence := rfl
@[simp] theorem nextUs_crcOk (s : State) : s.nextUs.crcOk = s.crcOk := rfl
@[simp] theorem nextUs_valid (s : State) : s.nextUs.valid = s.valid := rfl
@[simp] theorem nextUs_result (s : State) : s.nextUs.result = s.result := rfl
@[simp] theorem nextUs_rxdata (s : State) : s.nextUs.rxdata = s.rxdata := rfl
@[simp] theorem nextUs_crcCalc (s : State) : s.nextUs.crcCalc = s.crcCalc := rfl
@[simp] theorem nextUs_sp (s : State) : s.nextUs.sp = s.sp := rfl
@[simp] theorem nextUs_rangeLo (s : State) : s.nextUs.rangeLo = s.rangeLo := rfl
@[simp] theorem nextUs_rangeHi (s : State) : s.nextUs.rangeHi = s.rangeHi := rfl
@[simp] theorem nextUs_curOp (s : State) : s.nextUs.curOp = s.curOp := rfl
@[simp] theorem nextUs_curData (s : State) : s.nextUs.curData = s.curData := rfl
@[simp] theorem nextUs_rangeEnL (s : State) : s.nextUs.rangeEnL = s.rangeEnL := rfl
@[simp] theorem nextUs_slotIdx (s : State) : s.nextUs.slotIdx = s.slotIdx := rfl
@[simp] theorem nextUs_tUs (s : State) : s.nextUs.tUs = s.tUs + 1 := rfl
@[simp] theorem nextUs_pre (s : State) : s.nextUs.pre = s.pre := rfl
@[simp] theorem nextUs_sr (s : State) : s.nextUs.sr = s.sr := rfl
@[simp] theorem nextUs_presenceL (s : State) : s.nextUs.presenceL = s.presenceL := rfl
@[simp] theorem nextUs_vCnt (s : State) : s.nextUs.vCnt = s.vCnt := rfl
@[simp] theorem nextUs_sync (s : State) : s.nextUs.sync = s.sync := rfl
@[simp] theorem nextUs_dqOe (s : State) : s.nextUs.dqOe = s.dqOe := rfl
@[simp] theorem nextUs_viol (s : State) : s.nextUs.viol = s.viol := rfl
@[simp] theorem nextUs_rstN (s : State) : s.nextUs.rstN = s.rstN := rfl
@[simp] theorem nextUs_hRdata (s : State) : s.nextUs.hRdata = s.hRdata := rfl
@[simp] theorem nextUs_inputs (s : State) : s.nextUs.inputs = s.inputs := rfl
@[simp] theorem nextUs_draws (s : State) : s.nextUs.draws = s.draws := rfl

@[simp] theorem setPre_ieDone (s : State) (n : Nat) : (s.setPre n).ieDone = s.ieDone := rfl
@[simp] theorem setPre_ieErr (s : State) (n : Nat) : (s.setPre n).ieErr = s.ieErr := rfl
@[simp] theorem setPre_rangeEn (s : State) (n : Nat) : (s.setPre n).rangeEn = s.rangeEn := rfl
@[simp] theorem setPre_busy (s : State) (n : Nat) : (s.setPre n).busy = s.busy := rfl
@[simp] theorem setPre_done (s : State) (n : Nat) : (s.setPre n).done = s.done := rfl
@[simp] theorem setPre_errCmd (s : State) (n : Nat) : (s.setPre n).errCmd = s.errCmd := rfl
@[simp] theorem setPre_errBusy (s : State) (n : Nat) : (s.setPre n).errBusy = s.errBusy := rfl
@[simp] theorem setPre_presence (s : State) (n : Nat) : (s.setPre n).presence = s.presence := rfl
@[simp] theorem setPre_crcOk (s : State) (n : Nat) : (s.setPre n).crcOk = s.crcOk := rfl
@[simp] theorem setPre_valid (s : State) (n : Nat) : (s.setPre n).valid = s.valid := rfl
@[simp] theorem setPre_result (s : State) (n : Nat) : (s.setPre n).result = s.result := rfl
@[simp] theorem setPre_rxdata (s : State) (n : Nat) : (s.setPre n).rxdata = s.rxdata := rfl
@[simp] theorem setPre_crcCalc (s : State) (n : Nat) : (s.setPre n).crcCalc = s.crcCalc := rfl
@[simp] theorem setPre_sp (s : State) (n : Nat) : (s.setPre n).sp = s.sp := rfl
@[simp] theorem setPre_rangeLo (s : State) (n : Nat) : (s.setPre n).rangeLo = s.rangeLo := rfl
@[simp] theorem setPre_rangeHi (s : State) (n : Nat) : (s.setPre n).rangeHi = s.rangeHi := rfl
@[simp] theorem setPre_curOp (s : State) (n : Nat) : (s.setPre n).curOp = s.curOp := rfl
@[simp] theorem setPre_curData (s : State) (n : Nat) : (s.setPre n).curData = s.curData := rfl
@[simp] theorem setPre_rangeEnL (s : State) (n : Nat) : (s.setPre n).rangeEnL = s.rangeEnL := rfl
@[simp] theorem setPre_slotIdx (s : State) (n : Nat) : (s.setPre n).slotIdx = s.slotIdx := rfl
@[simp] theorem setPre_tUs (s : State) (n : Nat) : (s.setPre n).tUs = s.tUs := rfl
@[simp] theorem setPre_pre (s : State) (n : Nat) : (s.setPre n).pre = n := rfl
@[simp] theorem setPre_sr (s : State) (n : Nat) : (s.setPre n).sr = s.sr := rfl
@[simp] theorem setPre_presenceL (s : State) (n : Nat) : (s.setPre n).presenceL = s.presenceL := rfl
@[simp] theorem setPre_vCnt (s : State) (n : Nat) : (s.setPre n).vCnt = s.vCnt := rfl
@[simp] theorem setPre_sync (s : State) (n : Nat) : (s.setPre n).sync = s.sync := rfl
@[simp] theorem setPre_dqOe (s : State) (n : Nat) : (s.setPre n).dqOe = s.dqOe := rfl
@[simp] theorem setPre_viol (s : State) (n : Nat) : (s.setPre n).viol = s.viol := rfl
@[simp] theorem setPre_rstN (s : State) (n : Nat) : (s.setPre n).rstN = s.rstN := rfl
@[simp] theorem setPre_hRdata (s : State) (n : Nat) : (s.setPre n).hRdata = s.hRdata := rfl
@[simp] theorem setPre_inputs (s : State) (n : Nat) : (s.setPre n).inputs = s.inputs := rfl
@[simp] theorem setPre_draws (s : State) (n : Nat) : (s.setPre n).draws = s.draws := rfl

@[simp] theorem setVCnt_ieDone (s : State) (n : Nat) : (s.setVCnt n).ieDone = s.ieDone := rfl
@[simp] theorem setVCnt_ieErr (s : State) (n : Nat) : (s.setVCnt n).ieErr = s.ieErr := rfl
@[simp] theorem setVCnt_rangeEn (s : State) (n : Nat) : (s.setVCnt n).rangeEn = s.rangeEn := rfl
@[simp] theorem setVCnt_busy (s : State) (n : Nat) : (s.setVCnt n).busy = s.busy := rfl
@[simp] theorem setVCnt_done (s : State) (n : Nat) : (s.setVCnt n).done = s.done := rfl
@[simp] theorem setVCnt_errCmd (s : State) (n : Nat) : (s.setVCnt n).errCmd = s.errCmd := rfl
@[simp] theorem setVCnt_errBusy (s : State) (n : Nat) : (s.setVCnt n).errBusy = s.errBusy := rfl
@[simp] theorem setVCnt_presence (s : State) (n : Nat) : (s.setVCnt n).presence = s.presence := rfl
@[simp] theorem setVCnt_crcOk (s : State) (n : Nat) : (s.setVCnt n).crcOk = s.crcOk := rfl
@[simp] theorem setVCnt_valid (s : State) (n : Nat) : (s.setVCnt n).valid = s.valid := rfl
@[simp] theorem setVCnt_result (s : State) (n : Nat) : (s.setVCnt n).result = s.result := rfl
@[simp] theorem setVCnt_rxdata (s : State) (n : Nat) : (s.setVCnt n).rxdata = s.rxdata := rfl
@[simp] theorem setVCnt_crcCalc (s : State) (n : Nat) : (s.setVCnt n).crcCalc = s.crcCalc := rfl
@[simp] theorem setVCnt_sp (s : State) (n : Nat) : (s.setVCnt n).sp = s.sp := rfl
@[simp] theorem setVCnt_rangeLo (s : State) (n : Nat) : (s.setVCnt n).rangeLo = s.rangeLo := rfl
@[simp] theorem setVCnt_rangeHi (s : State) (n : Nat) : (s.setVCnt n).rangeHi = s.rangeHi := rfl
@[simp] theorem setVCnt_curOp (s : State) (n : Nat) : (s.setVCnt n).curOp = s.curOp := rfl
@[simp] theorem setVCnt_curData (s : State) (n : Nat) : (s.setVCnt n).curData = s.curData := rfl
@[simp] theorem setVCnt_rangeEnL (s : State) (n : Nat) : (s.setVCnt n).rangeEnL = s.rangeEnL := rfl
@[simp] theorem setVCnt_slotIdx (s : State) (n : Nat) : (s.setVCnt n).slotIdx = s.slotIdx := rfl
@[simp] theorem setVCnt_tUs (s : State) (n : Nat) : (s.setVCnt n).tUs = s.tUs := rfl
@[simp] theorem setVCnt_pre (s : State) (n : Nat) : (s.setVCnt n).pre = s.pre := rfl
@[simp] theorem setVCnt_sr (s : State) (n : Nat) : (s.setVCnt n).sr = s.sr := rfl
@[simp] theorem setVCnt_presenceL (s : State) (n : Nat) : (s.setVCnt n).presenceL = s.presenceL := rfl
@[simp] theorem setVCnt_vCnt (s : State) (n : Nat) : (s.setVCnt n).vCnt = n := rfl
@[simp] theorem setVCnt_sync (s : State) (n : Nat) : (s.setVCnt n).sync = s.sync := rfl
@[simp] theorem setVCnt_dqOe (s : State) (n : Nat) : (s.setVCnt n).dqOe = s.dqOe := rfl
@[simp] theorem setVCnt_viol (s : State) (n : Nat) : (s.setVCnt n).viol = s.viol := rfl
@[simp] theorem setVCnt_rstN (s : State) (n : Nat) : (s.setVCnt n).rstN = s.rstN := rfl
@[simp] theorem setVCnt_hRdata (s : State) (n : Nat) : (s.setVCnt n).hRdata = s.hRdata := rfl
@[simp] theorem setVCnt_inputs (s : State) (n : Nat) : (s.setVCnt n).inputs = s.inputs := rfl
@[simp] theorem setVCnt_draws (s : State) (n : Nat) : (s.setVCnt n).draws = s.draws := rfl

@[simp] theorem countDraw_ieDone (s : State) : s.countDraw.ieDone = s.ieDone := rfl
@[simp] theorem countDraw_ieErr (s : State) : s.countDraw.ieErr = s.ieErr := rfl
@[simp] theorem countDraw_rangeEn (s : State) : s.countDraw.rangeEn = s.rangeEn := rfl
@[simp] theorem countDraw_busy (s : State) : s.countDraw.busy = s.busy := rfl
@[simp] theorem countDraw_done (s : State) : s.countDraw.done = s.done := rfl
@[simp] theorem countDraw_errCmd (s : State) : s.countDraw.errCmd = s.errCmd := rfl
@[simp] theorem countDraw_errBusy (s : State) : s.countDraw.errBusy = s.errBusy := rfl
@[simp] theorem countDraw_presence (s : State) : s.countDraw.presence = s.presence := rfl
@[simp] theorem countDraw_crcOk (s : State) : s.countDraw.crcOk = s.crcOk := rfl
@[simp] theorem countDraw_valid (s : State) : s.countDraw.valid = s.valid := rfl
@[simp] theorem countDraw_result (s : State) : s.countDraw.result = s.result := rfl
@[simp] theorem countDraw_rxdata (s : State) : s.countDraw.rxdata = s.rxdata := rfl
@[simp] theorem countDraw_crcCalc (s : State) : s.countDraw.crcCalc = s.crcCalc := rfl
@[simp] theorem countDraw_sp (s : State) : s.countDraw.sp = s.sp := rfl
@[simp] theorem countDraw_rangeLo (s : State) : s.countDraw.rangeLo = s.rangeLo := rfl
@[simp] theorem countDraw_rangeHi (s : State) : s.countDraw.rangeHi = s.rangeHi := rfl
@[simp] theorem countDraw_curOp (s : State) : s.countDraw.curOp = s.curOp := rfl
@[simp] theorem countDraw_curData (s : State) : s.countDraw.curData = s.curData := rfl
@[simp] theorem countDraw_rangeEnL (s : State) : s.countDraw.rangeEnL = s.rangeEnL := rfl
@[simp] theorem countDraw_slotIdx (s : State) : s.countDraw.slotIdx = s.slotIdx := rfl
@[simp] theorem countDraw_tUs (s : State) : s.countDraw.tUs = s.tUs := rfl
@[simp] theorem countDraw_pre (s : State) : s.countDraw.pre = s.pre := rfl
@[simp] theorem countDraw_sr (s : State) : s.countDraw.sr = s.sr := rfl
@[simp] theorem countDraw_presenceL (s : State) : s.countDraw.presenceL = s.presenceL := rfl
@[simp] theorem countDraw_vCnt (s : State) : s.countDraw.vCnt = s.vCnt := rfl
@[simp] theorem countDraw_sync (s : State) : s.countDraw.sync = s.sync := rfl
@[simp] theorem countDraw_dqOe (s : State) : s.countDraw.dqOe = s.dqOe := rfl
@[simp] theorem countDraw_viol (s : State) : s.countDraw.viol = s.viol := rfl
@[simp] theorem countDraw_rstN (s : State) : s.countDraw.rstN = s.rstN := rfl
@[simp] theorem countDraw_hRdata (s : State) : s.countDraw.hRdata = s.hRdata := rfl
@[simp] theorem countDraw_inputs (s : State) : s.countDraw.inputs = s.inputs := rfl
@[simp] theorem countDraw_draws (s : State) : s.countDraw.draws = s.draws + 1 := rfl

end Sys2Proof.Machine.State
end

