-- ==== Sys2Proof/Laws/Controller.lean ====
section
/-! SUPPORT. What the controller's operations change: for each of them one equation that names every field it may change,
and from that one simp lemma for each field it leaves alone. -/

namespace Sys2Proof.Machine.State

/-- A sample changes the receive register, the presence latch and the SP buffer only. -/
theorem capture_eq (s : State) (d : Bool) :
    s.capture d = { s with
      sr := (s.capture d).sr, presenceL := (s.capture d).presenceL, sp := (s.capture d).sp } := by
  unfold capture
  split <;> first | rfl | (unfold captureReadSp; dsimp only; split <;> rfl)

@[simp] theorem capture_ieDone (s : State) (d : Bool) : (s.capture d).ieDone = s.ieDone :=
  (congrArg ieDone (capture_eq s d) :)
@[simp] theorem capture_ieErr (s : State) (d : Bool) : (s.capture d).ieErr = s.ieErr :=
  (congrArg ieErr (capture_eq s d) :)
@[simp] theorem capture_rangeEn (s : State) (d : Bool) : (s.capture d).rangeEn = s.rangeEn :=
  (congrArg rangeEn (capture_eq s d) :)
@[simp] theorem capture_busy (s : State) (d : Bool) : (s.capture d).busy = s.busy :=
  (congrArg busy (capture_eq s d) :)
@[simp] theorem capture_done (s : State) (d : Bool) : (s.capture d).done = s.done :=
  (congrArg done (capture_eq s d) :)
@[simp] theorem capture_errCmd (s : State) (d : Bool) : (s.capture d).errCmd = s.errCmd :=
  (congrArg errCmd (capture_eq s d) :)
@[simp] theorem capture_errBusy (s : State) (d : Bool) : (s.capture d).errBusy = s.errBusy :=
  (congrArg errBusy (capture_eq s d) :)
@[simp] theorem capture_presence (s : State) (d : Bool) : (s.capture d).presence = s.presence :=
  (congrArg presence (capture_eq s d) :)
@[simp] theorem capture_crcOk (s : State) (d : Bool) : (s.capture d).crcOk = s.crcOk :=
  (congrArg crcOk (capture_eq s d) :)
@[simp] theorem capture_valid (s : State) (d : Bool) : (s.capture d).valid = s.valid :=
  (congrArg valid (capture_eq s d) :)
@[simp] theorem capture_result (s : State) (d : Bool) : (s.capture d).result = s.result :=
  (congrArg result (capture_eq s d) :)
@[simp] theorem capture_rxdata (s : State) (d : Bool) : (s.capture d).rxdata = s.rxdata :=
  (congrArg rxdata (capture_eq s d) :)
@[simp] theorem capture_crcCalc (s : State) (d : Bool) : (s.capture d).crcCalc = s.crcCalc :=
  (congrArg crcCalc (capture_eq s d) :)
@[simp] theorem capture_rangeLo (s : State) (d : Bool) : (s.capture d).rangeLo = s.rangeLo :=
  (congrArg rangeLo (capture_eq s d) :)
@[simp] theorem capture_rangeHi (s : State) (d : Bool) : (s.capture d).rangeHi = s.rangeHi :=
  (congrArg rangeHi (capture_eq s d) :)
@[simp] theorem capture_curOp (s : State) (d : Bool) : (s.capture d).curOp = s.curOp :=
  (congrArg curOp (capture_eq s d) :)
@[simp] theorem capture_curData (s : State) (d : Bool) : (s.capture d).curData = s.curData :=
  (congrArg curData (capture_eq s d) :)
@[simp] theorem capture_rangeEnL (s : State) (d : Bool) : (s.capture d).rangeEnL = s.rangeEnL :=
  (congrArg rangeEnL (capture_eq s d) :)
@[simp] theorem capture_slotIdx (s : State) (d : Bool) : (s.capture d).slotIdx = s.slotIdx :=
  (congrArg slotIdx (capture_eq s d) :)
@[simp] theorem capture_tUs (s : State) (d : Bool) : (s.capture d).tUs = s.tUs :=
  (congrArg tUs (capture_eq s d) :)
@[simp] theorem capture_pre (s : State) (d : Bool) : (s.capture d).pre = s.pre :=
  (congrArg pre (capture_eq s d) :)
@[simp] theorem capture_vCnt (s : State) (d : Bool) : (s.capture d).vCnt = s.vCnt :=
  (congrArg vCnt (capture_eq s d) :)
@[simp] theorem capture_sync (s : State) (d : Bool) : (s.capture d).sync = s.sync :=
  (congrArg sync (capture_eq s d) :)
@[simp] theorem capture_dqOe (s : State) (d : Bool) : (s.capture d).dqOe = s.dqOe :=
  (congrArg dqOe (capture_eq s d) :)
@[simp] theorem capture_viol (s : State) (d : Bool) : (s.capture d).viol = s.viol :=
  (congrArg viol (capture_eq s d) :)
@[simp] theorem capture_rstN (s : State) (d : Bool) : (s.capture d).rstN = s.rstN :=
  (congrArg rstN (capture_eq s d) :)
@[simp] theorem capture_hRdata (s : State) (d : Bool) : (s.capture d).hRdata = s.hRdata :=
  (congrArg hRdata (capture_eq s d) :)
@[simp] theorem capture_inputs (s : State) (d : Bool) : (s.capture d).inputs = s.inputs :=
  (congrArg inputs (capture_eq s d) :)
@[simp] theorem capture_draws (s : State) (d : Bool) : (s.capture d).draws = s.draws :=
  (congrArg draws (capture_eq s d) :)

@[simp] theorem takeSample_ieDone (s : State) (d : Bool) : (s.takeSample d).ieDone = s.ieDone := by
  unfold takeSample; split <;> simp
@[simp] theorem takeSample_ieErr (s : State) (d : Bool) : (s.takeSample d).ieErr = s.ieErr := by
  unfold takeSample; split <;> simp
@[simp] theorem takeSample_rangeEn (s : State) (d : Bool) : (s.takeSample d).rangeEn = s.rangeEn := by
  unfold takeSample; split <;> simp
@[simp] theorem takeSample_busy (s : State) (d : Bool) : (s.takeSample d).busy = s.busy := by
  unfold takeSample; split <;> simp
@[simp] theorem takeSample_done (s : State) (d : Bool) : (s.takeSample d).done = s.done := by
  unfold takeSample; split <;> simp
@[simp] theorem takeSample_errCmd (s : State) (d : Bool) : (s.takeSample d).errCmd = s.errCmd := by
  unfold takeSample; split <;> simp
@[simp] theorem takeSample_errBusy (s : State) (d : Bool) : (s.takeSample d).errBusy = s.errBusy := by
  unfold takeSample; split <;> simp
@[simp] theorem takeSample_presence (s : State) (d : Bool) : (s.takeSample d).presence = s.presence := by
  unfold takeSample; split <;> simp
@[simp] theorem takeSample_crcOk (s : State) (d : Bool) : (s.takeSample d).crcOk = s.crcOk := by
  unfold takeSample; split <;> simp
@[simp] theorem takeSample_valid (s : State) (d : Bool) : (s.takeSample d).valid = s.valid := by
  unfold takeSample; split <;> simp
@[simp] theorem takeSample_result (s : State) (d : Bool) : (s.takeSample d).result = s.result := by
  unfold takeSample; split <;> simp
@[simp] theorem takeSample_rxdata (s : State) (d : Bool) : (s.takeSample d).rxdata = s.rxdata := by
  unfold takeSample; split <;> simp
@[simp] theorem takeSample_crcCalc (s : State) (d : Bool) : (s.takeSample d).crcCalc = s.crcCalc := by
  unfold takeSample; split <;> simp
@[simp] theorem takeSample_rangeLo (s : State) (d : Bool) : (s.takeSample d).rangeLo = s.rangeLo := by
  unfold takeSample; split <;> simp
@[simp] theorem takeSample_rangeHi (s : State) (d : Bool) : (s.takeSample d).rangeHi = s.rangeHi := by
  unfold takeSample; split <;> simp
@[simp] theorem takeSample_curOp (s : State) (d : Bool) : (s.takeSample d).curOp = s.curOp := by
  unfold takeSample; split <;> simp
@[simp] theorem takeSample_curData (s : State) (d : Bool) : (s.takeSample d).curData = s.curData := by
  unfold takeSample; split <;> simp
@[simp] theorem takeSample_rangeEnL (s : State) (d : Bool) : (s.takeSample d).rangeEnL = s.rangeEnL := by
  unfold takeSample; split <;> simp
@[simp] theorem takeSample_slotIdx (s : State) (d : Bool) : (s.takeSample d).slotIdx = s.slotIdx := by
  unfold takeSample; split <;> simp
@[simp] theorem takeSample_tUs (s : State) (d : Bool) : (s.takeSample d).tUs = s.tUs := by
  unfold takeSample; split <;> simp
@[simp] theorem takeSample_pre (s : State) (d : Bool) : (s.takeSample d).pre = s.pre := by
  unfold takeSample; split <;> simp
@[simp] theorem takeSample_vCnt (s : State) (d : Bool) : (s.takeSample d).vCnt = s.vCnt := by
  unfold takeSample; split <;> simp
@[simp] theorem takeSample_sync (s : State) (d : Bool) : (s.takeSample d).sync = s.sync := by
  unfold takeSample; split <;> simp
@[simp] theorem takeSample_dqOe (s : State) (d : Bool) : (s.takeSample d).dqOe = s.dqOe := by
  unfold takeSample; split <;> simp
@[simp] theorem takeSample_viol (s : State) (d : Bool) : (s.takeSample d).viol = s.viol := by
  unfold takeSample; split <;> simp
@[simp] theorem takeSample_rstN (s : State) (d : Bool) : (s.takeSample d).rstN = s.rstN := by
  unfold takeSample; split <;> simp
@[simp] theorem takeSample_hRdata (s : State) (d : Bool) : (s.takeSample d).hRdata = s.hRdata := by
  unfold takeSample; split <;> simp
@[simp] theorem takeSample_inputs (s : State) (d : Bool) : (s.takeSample d).inputs = s.inputs := by
  unfold takeSample; split <;> simp
@[simp] theorem takeSample_draws (s : State) (d : Bool) : (s.takeSample d).draws = s.draws := by
  unfold takeSample; split <;> simp

/-- Completion changes the results and the fields of R116 only. -/
theorem complete_eq (s : State) :
    s.complete = { s with
      presence := s.complete.presence, rxdata := s.complete.rxdata, crcCalc := s.complete.crcCalc,
      crcOk := s.complete.crcOk, result := s.complete.result, valid := s.complete.valid, vCnt := s.complete.vCnt,
      dqOe := s.complete.dqOe, curOp := s.complete.curOp, slotIdx := s.complete.slotIdx, tUs := s.complete.tUs,
      busy := s.complete.busy, done := s.complete.done } := by
  unfold complete; split <;> rfl

@[simp] theorem complete_ieDone (s : State) : s.complete.ieDone = s.ieDone :=
  (congrArg ieDone (complete_eq s) :)
@[simp] theorem complete_ieErr (s : State) : s.complete.ieErr = s.ieErr :=
  (congrArg ieErr (complete_eq s) :)
@[simp] theorem complete_rangeEn (s : State) : s.complete.rangeEn = s.rangeEn :=
  (congrArg rangeEn (complete_eq s) :)
@[simp] theorem complete_errCmd (s : State) : s.complete.errCmd = s.errCmd :=
  (congrArg errCmd (complete_eq s) :)
@[simp] theorem complete_errBusy (s : State) : s.complete.errBusy = s.errBusy :=
  (congrArg errBusy (complete_eq s) :)
@[simp] theorem complete_sp (s : State) : s.complete.sp = s.sp :=
  (congrArg sp (complete_eq s) :)
@[simp] theorem complete_rangeLo (s : State) : s.complete.rangeLo = s.rangeLo :=
  (congrArg rangeLo (complete_eq s) :)
@[simp] theorem complete_rangeHi (s : State) : s.complete.rangeHi = s.rangeHi :=
  (congrArg rangeHi (complete_eq s) :)
@[simp] theorem complete_curData (s : State) : s.complete.curData = s.curData :=
  (congrArg curData (complete_eq s) :)
@[simp] theorem complete_rangeEnL (s : State) : s.complete.rangeEnL = s.rangeEnL :=
  (congrArg rangeEnL (complete_eq s) :)
@[simp] theorem complete_pre (s : State) : s.complete.pre = s.pre :=
  (congrArg pre (complete_eq s) :)
@[simp] theorem complete_sr (s : State) : s.complete.sr = s.sr :=
  (congrArg sr (complete_eq s) :)
@[simp] theorem complete_presenceL (s : State) : s.complete.presenceL = s.presenceL :=
  (congrArg presenceL (complete_eq s) :)
@[simp] theorem complete_sync (s : State) : s.complete.sync = s.sync :=
  (congrArg sync (complete_eq s) :)
@[simp] theorem complete_viol (s : State) : s.complete.viol = s.viol :=
  (congrArg viol (complete_eq s) :)
@[simp] theorem complete_rstN (s : State) : s.complete.rstN = s.rstN :=
  (congrArg rstN (complete_eq s) :)
@[simp] theorem complete_hRdata (s : State) : s.complete.hRdata = s.hRdata :=
  (congrArg hRdata (complete_eq s) :)
@[simp] theorem complete_inputs (s : State) : s.complete.inputs = s.inputs :=
  (congrArg inputs (complete_eq s) :)
@[simp] theorem complete_draws (s : State) : s.complete.draws = s.draws :=
  (congrArg draws (complete_eq s) :)

@[simp] theorem endSlot_ieDone (s : State) : s.endSlot.ieDone = s.ieDone := by
  unfold endSlot; split <;> simp
@[simp] theorem endSlot_ieErr (s : State) : s.endSlot.ieErr = s.ieErr := by
  unfold endSlot; split <;> simp
@[simp] theorem endSlot_rangeEn (s : State) : s.endSlot.rangeEn = s.rangeEn := by
  unfold endSlot; split <;> simp
@[simp] theorem endSlot_errCmd (s : State) : s.endSlot.errCmd = s.errCmd := by
  unfold endSlot; split <;> simp
@[simp] theorem endSlot_errBusy (s : State) : s.endSlot.errBusy = s.errBusy := by
  unfold endSlot; split <;> simp
@[simp] theorem endSlot_sp (s : State) : s.endSlot.sp = s.sp := by
  unfold endSlot; split <;> simp
@[simp] theorem endSlot_rangeLo (s : State) : s.endSlot.rangeLo = s.rangeLo := by
  unfold endSlot; split <;> simp
@[simp] theorem endSlot_rangeHi (s : State) : s.endSlot.rangeHi = s.rangeHi := by
  unfold endSlot; split <;> simp
@[simp] theorem endSlot_curData (s : State) : s.endSlot.curData = s.curData := by
  unfold endSlot; split <;> simp
@[simp] theorem endSlot_rangeEnL (s : State) : s.endSlot.rangeEnL = s.rangeEnL := by
  unfold endSlot; split <;> simp
@[simp] theorem endSlot_pre (s : State) : s.endSlot.pre = s.pre := by
  unfold endSlot; split <;> simp
@[simp] theorem endSlot_sr (s : State) : s.endSlot.sr = s.sr := by
  unfold endSlot; split <;> simp
@[simp] theorem endSlot_presenceL (s : State) : s.endSlot.presenceL = s.presenceL := by
  unfold endSlot; split <;> simp
@[simp] theorem endSlot_sync (s : State) : s.endSlot.sync = s.sync := by
  unfold endSlot; split <;> simp
@[simp] theorem endSlot_viol (s : State) : s.endSlot.viol = s.viol := by
  unfold endSlot; split <;> simp
@[simp] theorem endSlot_rstN (s : State) : s.endSlot.rstN = s.rstN := by
  unfold endSlot; split <;> simp
@[simp] theorem endSlot_hRdata (s : State) : s.endSlot.hRdata = s.hRdata := by
  unfold endSlot; split <;> simp
@[simp] theorem endSlot_inputs (s : State) : s.endSlot.inputs = s.inputs := by
  unfold endSlot; split <;> simp
@[simp] theorem endSlot_draws (s : State) : s.endSlot.draws = s.draws := by
  unfold endSlot; split <;> simp

/-- Every completion frees the controller and publishes BUSY = 0, DONE = 1 in the same step (R116). -/
theorem complete_idle {s : State} (h : s.curOp ≠ .idle) :
    s.complete.curOp = .idle ∧ s.complete.busy = false ∧ s.complete.done = true ∧ s.complete.dqOe = false ∧
      s.complete.slotIdx = 0 ∧ s.complete.tUs = 0 := by
  unfold complete
  cases hop : s.curOp <;> first | exact absurd hop h | exact ⟨rfl, rfl, rfl, rfl, rfl, rfl⟩

end Sys2Proof.Machine.State
end

