-- ==== Sys2Proof/Laws/HostPort.lean ====
section
/-! SUPPORT. The host port: for each of its operations one lemma that says everything it can do when it answers a next
state. -/

namespace Sys2Proof.Machine

/-- Each register is found at its offset (R23). -/
@[simp] theorem regAt_offset (r : Reg) : regAt (BitVec.ofNat 6 r.offset) = r := by cases r <;> decide

@[simp] theorem Access.isDefined_writeOf (r : Reg) (v : Word) : (Access.writeOf r v).isDefined = true := by
  show (0b10#2 == 0b10#2 && ((BitVec.ofNat 6 r.offset).extractLsb' 0 2 == 0#2)) = true; cases r <;> decide

@[simp] theorem Access.isDefined_readOf (r : Reg) : (Access.readOf r).isDefined = true := by
  show (0b10#2 == 0b10#2 && ((BitVec.ofNat 6 r.offset).extractLsb' 0 2 == 0#2)) = true; cases r <;> decide

/-- What is no aligned 32-bit access (R62). -/
theorem Access.isDefined_false {a : Access} (h : a.size ≠ 0b10#2 ∨ a.addr.toNat % 4 ≠ 0) : a.isDefined = false := by
  have e : a.addr.extractLsb' 0 2 = 0#2 → a.addr.toNat % 4 = 0 := by
    intro e
    have := congrArg BitVec.toNat e
    simpa [BitVec.extractLsb'_toNat] using this
  unfold Access.isDefined
  rcases h with h | h
  · simp [h]
  · simp [mt e h]

/-- A write with no reserved bit set leaves the ghost flag alone. -/
theorem State.noteReserved_none (s : State) {r : Reg} {v : Word} (h : reservedSet r v = false) :
    s.noteReserved r v = s := by
  simp [State.noteReserved, h]

theorem State.noteReserved_eq (s : State) (r : Reg) (v : Word)  :
    s.noteReserved r v = { s with viol := s.viol || reservedSet r v } := rfl

/-- A write reaches its register after the ghost flag has noted its reserved bits. -/
theorem portAccess_writeOf {s : State} (h : s.rstN = true) (r : Reg) (v : Word) (line : Bool) :
    portAccess (Access.writeOf r v) line s = writeReg r v (s.noteReserved r v) := by
  simp [portAccess, Access.writeOf, h, State.noteReserved]

theorem State.consume_cons {s : State} {i : Input} {rest : List Input} (h : s.inputs = i :: rest) :
    s.consume = { s with inputs := rest } := by unfold State.consume; rw [h]; rfl

theorem step_cons {s : State} {i : Input} {rest : List Input} (h : s.inputs = i :: rest) : step s = deliver i s := by
  unfold step; rw [h]

theorem guardAccess_defined {a : Access} (h : a.isDefined = true) (f : State → Outcome) (s : State) :
    guardAccess a f s = f s.consume := by
  simp [guardAccess, h]

/-- Everything that can become of an access (R62). -/
theorem guardAccess_cases {a : Access} {f : State → Outcome} {s t : State} (h : guardAccess a f s = .next t) :
   (a.isDefined = true ∧ f s.consume = .next t) ∨ (a.isDefined = false ∧ s.viol = false ∧ t = { s with
         viol := true }) := by
  unfold guardAccess at h
  split at h
  next hd => exact .inl ⟨hd, h⟩
  next hd =>
    split at h
    · cases h
    next hv => injection h with h; exact .inr ⟨by simpa using hd, by simpa using hv, h.symm⟩

theorem MemOp.toAccess_in {off : Nat} (h : off ≤ 0x3F) (n : Nat) (w : Option Word) :
    MemOp.toAccess ⟨Config.owBase + off, n, w⟩ = some ⟨w.isSome, BitVec.ofNat 6 off, sizeCode n, w.getD 0#32⟩ := by
  unfold MemOp.toAccess
  rw [if_pos (by simp; omega)]
  simp

theorem MemOp.toAccess_out {m : MemOp} (h : m.addr < Config.owBase ∨ Config.owBase + 0x3F < m.addr) :
    m.toAccess = none := by
  unfold MemOp.toAccess
  rw [if_neg (by omega)]

/-- Every command request answers a next state. -/
theorem exec_next (i : Instr) (s : State) : ∃ t, exec i s = .next t := by cases i <;> exact ⟨_, rfl⟩

/-- Everything a command request can do (R95). -/
theorem exec_cases {i : Instr} {s t : State} (h : exec i s = .next t) :
   (s.busy = true ∧ t = s.raiseErrBusy) ∨ (s.busy = false ∧ t = s.accept (opOf i) i.data ∧ opOf i ≠ .readSp) ∨
       (s.busy = false ∧ t = (s.accept .readSp i.data).clearVerdict ∧ opOf i = .readSp) := by
  cases hb : s.busy <;> cases i <;> (injection h with h; simp [State.request, hb] at h; subst h; simp [opOf,
      Instr.data])

/-- A CMD write of a word that decodes runs the command. -/
theorem request_cmd {s : State} (h : s.rstN = true) {v : Word} {i : Instr} (hd : decode v = .ok i) (line : Bool) :
    portAccess (Access.writeOf .cmd v) line s = exec i { s with viol := s.viol || cmdReservedSet v } := by
  rw [portAccess_writeOf h]
  show commandRequest v (s.noteReserved .cmd v) = exec i (s.noteReserved .cmd v)
  unfold commandRequest
  rw [hd]
  split
  next hb => cases i <;> simp only [exec, execReset, execWriteBit, execReadBit, execWriteByte, execReadByte,
      execReadSp, execValidate, State.request, hb, if_true]
  · rfl

theorem commandRequest_next (v : Word) (s : State) : ∃ t, commandRequest v s = .next t := by
  unfold commandRequest
  split
  · exact ⟨_, rfl⟩
  · split
    · exact ⟨_, rfl⟩
    · exact exec_next _ _

theorem writeReg_next (r : Reg) (v : Word) (s : State) : ∃ t, writeReg r v s = .next t := by
  cases r <;> first | exact ⟨_, rfl⟩ | exact commandRequest_next v s

theorem portAccess_next (a : Access) (line : Bool) (s : State) : ∃ t, portAccess a line s = .next t := by
  unfold portAccess
  split
  · dsimp only
    split
    · exact writeReg_next _ _ _
    · exact ⟨_, rfl⟩
  · exact ⟨_, rfl⟩

theorem clockAccess_next (a : Access) (line : Bool) (s : State) : ∃ t, clockAccess a line s = .next t := by
  obtain ⟨t, h⟩ := portAccess_next a (s.syncedLine line) s
  unfold clockAccess
  rw [h]
  dsimp only
  split
  · exact ⟨_, rfl⟩
  · split <;> exact ⟨_, rfl⟩

theorem State.writeSp0_eq (s : State) (v : Word) : State.writeSp0 v s = { s with
      sp := (State.writeSp0 v s).sp, result := .none, valid := false, crcOk := false } := by
  apply State.ext <;> simp [State.writeSp0]

theorem State.writeSp1_eq (s : State) (v : Word) : State.writeSp1 v s = { s with
      sp := (State.writeSp1 v s).sp, result := .none, valid := false, crcOk := false } := by
  apply State.ext <;> simp [State.writeSp1]

theorem State.writeSp2_eq (s : State) (v : Word) : State.writeSp2 v s = { s with
      sp := (State.writeSp2 v s).sp, result := .none, valid := false, crcOk := false } := by
  apply State.ext <;> simp [State.writeSp2]

/-- Everything a register write can do (R64, R95). -/
inductive WriteCase (r : Reg) (v : Word) (s t : State) : Prop where
  | none (hr : r = .rxdata ∨ r = .crc ∨ r = .temp ∨ r = .reserved) (ht : t = s)
  | softReset (hr : r = .ctrl) (hv : v.getLsbD 0 = true) (ht : t = s.resetBlock)
  | ctrl (hr : r = .ctrl) (hv : v.getLsbD 0 = false) (ht : t = { s with
        ieDone := v.getLsbD 1, ieErr := v.getLsbD 2, rangeEn := v.getLsbD 3 })
  | status (hr : r = .status) (ht : t = s.clearSticky v)
  | busy (hb : s.busy = true) (hr : r = .cmd ∨ r = .sp0 ∨ r = .sp1 ∨ r = .sp2 ∨ r = .range)
      (ht : t = s.raiseErrBusy)
  | errCmd (hb : s.busy = false) (hr : r = .cmd) (ht : t = s.raiseErrCmd) (e : DecodeError) (he : decode v = .error e)
  | accept (hb : s.busy = false) (hr : r = .cmd) (i : Instr) (hi : decode v = .ok i) (ht : exec i s = .next t)
  | sp (hb : s.busy = false) (hr : r = .sp0 ∧ t = State.writeSp0 v s ∨ r = .sp1 ∧ t = State.writeSp1 v s ∨
      r = .sp2 ∧ t = State.writeSp2 v s) (ht : t = { s with
        sp := t.sp, result := .none, valid := false, crcOk := false })
  | range (hb : s.busy = false) (hr : r = .range) (ht : t = State.writeRange v s)

theorem writeReg_cases {r : Reg} {v : Word} {s t : State} (h : writeReg r v s = .next t) : WriteCase r v s t := by
  cases hb : s.busy with
  | false =>
    cases r with
    | cmd =>
      unfold writeReg commandRequest at h
      simp only [hb, Bool.false_eq_true, if_false] at h
      split at h
      next e he => injection h with h; exact .errCmd hb rfl h.symm e he
      next i hi => exact .accept hb rfl i hi h
    | ctrl =>
      injection h with h
      subst h
      unfold State.writeCtrl
      split
      next hv => exact .softReset rfl hv rfl
      next hv => exact .ctrl rfl (by simpa using hv) rfl
    | status => injection h with h; exact .status rfl h.symm
    | sp0 =>
      injection h with h; simp only [State.whenIdle, hb, Bool.false_eq_true,
          if_false] at h; subst h; exact .sp hb (by simp) (State.writeSp0_eq s v)
    | sp1 =>
      injection h with h; simp only [State.whenIdle, hb, Bool.false_eq_true,
          if_false] at h; subst h; exact .sp hb (by simp) (State.writeSp1_eq s v)
    | sp2 =>
      injection h with h; simp only [State.whenIdle, hb, Bool.false_eq_true,
          if_false] at h; subst h; exact .sp hb (by simp) (State.writeSp2_eq s v)
    | range =>
      injection h with h; simp only [State.whenIdle, hb, Bool.false_eq_true,
          if_false] at h; subst h; exact .range hb rfl rfl
    | _ => injection h with h; exact .none (by simp) h.symm
  | true =>
    cases r with
    | ctrl =>
      injection h with h
      subst h
      unfold State.writeCtrl
      split
      next hv => exact .softReset rfl hv rfl
      next hv => exact .ctrl rfl (by simpa using hv) rfl
    | status => injection h with h; exact .status rfl h.symm
    | cmd =>
      simp only [writeReg, commandRequest, hb, if_true] at h
      injection h with h
      exact .busy hb (by simp) h.symm
    | sp0 | sp1 | sp2 | range =>
      simp only [writeReg, State.whenIdle, hb, if_true] at h
      injection h with h
      exact .busy hb (by simp) h.symm
    | _ => injection h with h; exact .none (by simp) h.symm

/-- Everything a host access can do: a read, a write ignored in reset, a write. -/
theorem portAccess_cases {a : Access} {line : Bool} {s t : State} (h : portAccess a line s = .next t) :
    (a.write = false ∧ t = { s with hRdata := t.hRdata }) ∨
    (a.write = true ∧ s.rstN = false ∧ t = s.noteReserved (regAt a.addr) a.wdata) ∨
    (a.write = true ∧ s.rstN = true ∧ WriteCase (regAt a.addr) a.wdata (s.noteReserved (regAt a.addr) a.wdata) t)
        := by
  unfold portAccess at h
  split at h
  next hw =>
    dsimp only at h
    split at h
    next hr => exact .inr (.inr ⟨hw, hr, writeReg_cases h⟩)
    next hr => injection h with h; exact .inr (.inl ⟨hw, by simpa using hr, h.symm⟩)
  next hw => injection h with h; subst h; exact .inl ⟨by simpa using hw, rfl⟩

theorem exec_viol {i : Instr} {s t : State} (h : exec i s = .next t) : t.viol = s.viol := by
  rcases exec_cases h with ⟨_, rfl⟩ | ⟨_, rfl, _⟩ | ⟨_, rfl, _⟩ <;> rfl

theorem WriteCase.viol {r : Reg} {v : Word} {s t : State} (h : WriteCase r v s t) : t.viol = s.viol := by
  cases h with
  | accept _ _ _ _ h => exact exec_viol h
  | sp _ _ ht => rw [ht]
  | _ => subst t; rfl

theorem portAccess_viol {a : Access} {line : Bool} {s t : State} (h : portAccess a line s = .next t) :
    t.viol = (s.viol || (a.write && reservedSet (regAt a.addr) a.wdata)) := by
  rcases portAccess_cases h with ⟨hw, e⟩ | ⟨hw, hr, e⟩ | ⟨hw, hr, e⟩
  · rw [e]; simp [hw]
  · rw [e]; simp [hw, State.noteReserved]
  · rw [WriteCase.viol e]; simp [hw, State.noteReserved]

theorem portAccess_rstN {a : Access} {line : Bool} {s t : State} (h : portAccess a line s = .next t) :
    t.rstN = s.rstN := by
  rcases portAccess_cases h with ⟨hw, e⟩ | ⟨hw, hr, e⟩ | ⟨hw, hr, e⟩
  · rw [e]
  · rw [e]; rfl
  · cases e with
    | accept _ _ i _ ht => rcases exec_cases ht with ⟨_, rfl⟩ | ⟨_, rfl, _⟩ | ⟨_, rfl, _⟩ <;> rfl
    | sp _ _ ht => rw [ht]; rfl
    | _ => subst t; rfl

/-- A clock edge with an access: the access, and then what the controller does on the edge (R198). -/
theorem clockAccess_cases {a : Access} {line : Bool} {s t : State} (h : clockAccess a line s = .next t) :
    ∃ u, portAccess a (s.syncedLine line) s = .next u ∧
      ((s.rstN = false ∧ t = u) ∨ (a.isSoftReset = true ∧ s.rstN = true ∧ t = u) ∨
       (s.rstN = true ∧ a.isSoftReset = false ∧ s.curOp = .idle ∧ t = u.shiftSync (s.dqIn line)) ∨
       (s.rstN = true ∧ a.isSoftReset = false ∧ s.curOp ≠ .idle ∧ t = State.cycle (s.syncedLine line)
           (u.shiftSync (s.dqIn line)))) := by
  obtain ⟨u, hu⟩ := portAccess_next a (s.syncedLine line) s
  refine ⟨u, hu, ?_⟩
  unfold clockAccess at h
  rw [hu] at h
  dsimp only at h
  cases hr : s.rstN <;> cases hs : a.isSoftReset <;> simp only [hr, hs] at h
  · injection h with h; exact .inl ⟨rfl, h.symm⟩
  · injection h with h; exact .inl ⟨rfl, h.symm⟩
  · simp only [Bool.not_true, Bool.or_self, Bool.false_eq_true, if_false] at h
    split at h <;> injection h with h
    next hi => exact .inr (.inr (.inl ⟨rfl, rfl, hi, h.symm⟩))
    next hi => exact .inr (.inr (.inr ⟨rfl, rfl, hi, h.symm⟩))
  · injection h with h; exact .inr (.inl ⟨rfl, rfl, h.symm⟩)

/-- Everything a step that answers a next state can have been. -/
inductive StepCase (s t : State) : Prop where
  | alone (hi : s.inputs = []) (ht : t = s.controllerAlone)
  | undefined (i : Input) (rest : List Input) (a : Access) (hi : s.inputs = i :: rest) (ha : i.access? = some a)
      (hd : a.isDefined = false) (hv : s.viol = false) (ht : t = { s with viol := true })
  | outside (m : MemOp) (line : Bool) (rest : List Input) (hi : s.inputs = .mem m line :: rest)
      (hm : m.toAccess = none) (ht : t = s.consume)
  | slot (d : Bool) (rest : List Input) (hi : s.inputs = .slot d :: rest) (ht : t = s.consume.slotStep d)
  | clock (l : Bool) (rest : List Input) (hi : s.inputs = .clock l :: rest) (ht : t = s.consume.clockEdge l)
  | rst (l : Bool) (rest : List Input) (hi : s.inputs = .rst l :: rest) (ht : t = s.consume.setRstN l)
  | access (i : Input) (rest : List Input) (a : Access) (line : Bool) (hi : s.inputs = i :: rest)
      (ha : i.access? = some a) (hd : a.isDefined = true)
      (hp : i.violates = (a.write && reservedSet (regAt a.addr) a.wdata))
          (ht : portAccess a line s.consume = .next t)
  | clocked (rest : List Input) (a : Access) (line : Bool) (hi : s.inputs = .clockAccess a line :: rest)
      (hd : a.isDefined = true)
      (ht : clockAccess a line s.consume = .next t)

theorem step_cases {s t : State} (h : step s = .next t) : StepCase s t := by
  unfold step at h
  split at h
  next hi => injection h with h; exact .alone hi h.symm
  next i rest hi =>
  cases i with
  | access a line =>
    rcases guardAccess_cases h with ⟨hd, h⟩ | ⟨hd, hv, h⟩
    · exact .access _ _ a _ hi rfl hd (by simp [Input.violates, Access.violates, hd]) h
    · exact .undefined _ _ a hi rfl hd hv h
  | mem m line =>
    unfold deliver at h
    dsimp only at h
    cases hm : m.toAccess with
    | none => rw [hm] at h; injection h with h; exact .outside m line rest hi hm h.symm
    | some a =>
      rw [hm] at h
      rcases guardAccess_cases h with ⟨hd, h⟩ | ⟨hd, hv, h⟩
      · exact .access _ _ a _ hi hm hd (by simp [Input.violates, Access.violates, hd, hm]) h
      · exact .undefined _ _ a hi hm hd hv h
  | slot d => injection h with h; exact .slot d rest hi h.symm
  | clock d => injection h with h; exact .clock d rest hi h.symm
  | rst d => injection h with h; exact .rst d rest hi h.symm
  | clockAccess a line =>
    rcases guardAccess_cases h with ⟨hd, h⟩ | ⟨hd, hv, h⟩
    · exact .clocked _ a _ hi hd h
    · exact .undefined _ _ a hi rfl hd hv h

end Sys2Proof.Machine
end

