-- ==== Sys2Proof/Laws/Slots.lean ====
section
/-! SUPPORT. Slots and the untimed controller step: which slot a state is in, what a step does in the middle of a command
and at its end, and how far each reading command gets with its samples. -/

namespace Sys2Proof.Machine

theorem SlotKind.low_pos (k : SlotKind) : 0 < k.low := by cases k <;> decide

theorem SlotKind.total_pos (k : SlotKind) : 0 < k.total := by cases k <;> decide

theorem SlotKind.low_le_total (k : SlotKind) : k.low < k.total := by cases k <;> decide

/-- A sample instant lies in the release phase, at least 2 µs after its start (R112). -/
theorem SlotKind.sampleAt_lt {k : SlotKind} {t : Nat} (h : k.sampleAt = some t) : k.low + 2 ≤ t ∧ t < k.total := by
  cases k <;> simp [SlotKind.sampleAt] at h <;> subst h <;> decide

/-- A write slot takes no sample (R112). -/
theorem writeSlot_sampleAt (b : Bool) : (writeSlot b).sampleAt = none := by cases b <;> rfl

/-- Whether a command runs slots does not depend on the slot number. -/
theorem Op.slotKind_none (op : Op) (data : Byte) (j k : Nat) :
    op.slotKind data j = none ↔ op.slotKind data k = none := by
  cases op <;> simp [Op.slotKind]

theorem Op.slots_pos {op : Op} {data : Byte} {k : Nat} (h : op.slotKind data k ≠ none) : 0 < op.slots := by
  cases op <;> first | exact absurd rfl h | decide

/-- No slot runs exactly in the idle state and in VALIDATE. -/
theorem State.kind_none_iff {s : State} : s.kind = none ↔ s.curOp = .idle ∨ s.curOp = .validate := by
  unfold State.kind
  cases s.curOp <;> simp [Op.slotKind]

theorem State.kind_some_of_bus {s : State} (h : s.curOp ≠ .idle) (h' : s.curOp ≠ .validate) : ∃ k,
    s.kind = some k := by
  unfold State.kind
  cases hc : s.curOp <;> first | exact absurd hc h | exact absurd hc h' | exact ⟨_, rfl⟩

theorem State.lowPhase_eq {s : State} {k : SlotKind} (hk : s.kind = some k) : s.lowPhase = decide (s.tUs < k.low)
    := by
  unfold State.lowPhase; rw [hk]

/-- A slot starts in its low phase. -/
theorem State.lowPhase_start {s : State} (hk : s.kind ≠ none) (ht : s.tUs = 0) : s.lowPhase = true := by
  unfold State.lowPhase
  split
  · contradiction
  · simp [ht, SlotKind.low_pos]

theorem State.request_idle {op : Op} {data : Byte} {s : State} (h : s.busy = false) :
    s.request op data = s.accept op data := by
  simp [State.request, h]

/-- Acceptance drives the line exactly for a bus command. -/
theorem State.accept_dqOe (s : State) (op : Op) (data : Byte) :
    (s.accept op data).dqOe = (op != .idle && op != .validate) := by
  cases op
  case idle => rfl
  case validate => rfl
  all_goals
    rw [show ∀ op, (s.accept op data).dqOe = (s.accept op data).lowPhase from fun _ => rfl]
    exact State.lowPhase_start (by simp [State.kind, Op.slotKind]) rfl

theorem State.slotSteps_nil (s : State) : s.slotSteps [] = s := rfl

theorem State.slotSteps_append (s : State) (ds : List Bool) (d : Bool) :
    s.slotSteps (ds ++ [d]) = (s.slotSteps ds).slotStep d := by
  simp [State.slotSteps]

/-- The controller has nothing to do while idle. -/
theorem State.slotStep_idle {s : State} (h : s.curOp = .idle) (d : Bool) : s.slotStep d = s := by
  unfold State.slotStep
  rw [State.kind_none_iff.2 (.inl h)]
  show s.complete = s
  unfold State.complete; rw [h]

/-- A controller step that does not end the command. -/
theorem State.slotStep_mid {s : State} (d : Bool) (hk : s.kind ≠ none) (hn : s.slotIdx + 1 ≠ s.curOp.slots) :
    s.slotStep d = ((s.takeSample d).setPre 0).nextSlot.drive := by
  unfold State.slotStep
  split
  · unfold State.endSlot; rw [if_neg (by simpa using hn)]
  · contradiction

/-- The controller step of the last slot. -/
theorem State.slotStep_last {s : State} (d : Bool) (hk : s.kind ≠ none) (hn : s.slotIdx + 1 = s.curOp.slots) :
    s.slotStep d = ((s.takeSample d).setPre 0).nextSlot.complete := by
  unfold State.slotStep
  split
  · unfold State.endSlot; rw [if_pos (by simpa using hn)]
  · contradiction

theorem State.takeSample_write {s : State} (d : Bool) (h : s.curOp = .writeByte ∨ s.curOp = .writeBit) :
    s.takeSample d = s := by
  have : s.samplePending = false := by
    rcases h with h | h <;> simp [State.samplePending, State.kind, h, Op.slotKind, writeSlot_sampleAt]
  simp [State.takeSample, this]

/-- At the start of a slot its sample is still to come. -/
theorem State.takeSample_fresh {s : State} {k : SlotKind} (d : Bool) (hk : s.kind = some k)
    (hs : k.sampleAt ≠ none) (ht : s.tUs = 0) : s.takeSample d = s.capture d := by
  have : s.samplePending = true := by
    unfold State.samplePending; rw [hk]
    cases k <;> simp_all [SlotKind.sampleAt]
  simp [State.takeSample, this]

theorem setBit_zero_zero (d : Bool) : setBit 0x00#8 0 d = if d then 1 else 0 := by cases d <;> decide

theorem ext_first (d : Bool) : (BitVec.ofBool ((if d then 1 else 0 : Byte).getLsbD 0)).setWidth 8 = (if d then 1 else 0 : Byte) := by cases d <;> decide

/-- The bits of a byte after one is assigned. -/
theorem getLsbD_setBit (b : Byte) (i k : Nat) (d : Bool) (hi : i < 8) :
    (setBit b i d).getLsbD k = if k = i then d else b.getLsbD k := by
  unfold setBit
  by_cases h8 : k < 8
  · cases d <;> by_cases h : k = i <;> simp [h, hi, h8]
  · rw [if_neg (show ¬ k = i by omega)]
    cases d <;> simp [BitVec.getLsbD_of_ge, Nat.le_of_not_lt h8]

theorem State.slotStep_read_mid {u : State} (d : Bool) (hk : u.kind = some .r) (h2 : u.tUs = 0) (h3 : u.pre = 0)
    (h4 : u.dqOe = true)
    (hop : u.curOp = .readByte ∨ u.curOp = .readSp)
    (h : u.slotIdx + 1 ≠ u.curOp.slots) : u.slotStep d = { u.capture d with slotIdx := u.slotIdx + 1 } := by
  rw [State.slotStep_mid _ (by simp [hk]) h, State.takeSample_fresh d hk (by simp [SlotKind.sampleAt]) h2]
  have hk' : (((u.capture d).setPre 0).nextSlot).kind ≠ none := by rcases hop with e | e <;> simp [State.kind,
      Op.slotKind, e]
  have := State.lowPhase_start hk' rfl
  apply State.ext <;> first
    | exact this.trans (by simp [h4])
    | simp [h2, h3]

theorem State.slotStep_read_last {u : State} (d : Bool) (hk : u.kind = some .r) (h2 : u.tUs = 0)
    (h : u.slotIdx + 1 = u.curOp.slots) : u.slotStep d = ((u.capture d).setPre 0).nextSlot.complete := by
  rw [State.slotStep_last _ (by simp [hk]) h, State.takeSample_fresh d hk (by simp [SlotKind.sampleAt]) h2]

/-- READ_BYTE after fewer than eight samples: each has gone to its bit of `sr`. -/
theorem readByte_course (s : State) (ign : Byte) (ds : List Bool) (hl : ds.length < 8) :
    ∃ r : Byte, (∀ k, k < ds.length → r.getLsbD k = ds.getD k false) ∧
      (s.accept .readByte ign).slotSteps ds = { s.accept .readByte ign with slotIdx := ds.length, sr := r } := by
  induction ds using List.reverseRecOn with
  | nil => exact ⟨0, by simp, rfl⟩
  | append_singleton ds d ih =>
    rw [List.length_append, List.length_singleton] at hl
    obtain ⟨r, hr, e⟩ := ih (by omega)
    refine ⟨setBit r ds.length d, ?_, ?_⟩
    · intro k hk
      rw [List.length_append, List.length_singleton] at hk
      rw [getLsbD_setBit _ _ _ _ (by omega)]
      split
      · subst k; simp
      · rw [hr k (by omega), List.getD_append _ _ _ _ (by omega)]
    · rw [State.slotSteps_append, State.slotStep_read_mid] <;> rw [e]
      · rw [List.length_append]; rfl
      · rfl
      · rfl
      · rfl
      · exact State.accept_dqOe s .readByte ign
      · exact .inl rfl
      · show ds.length + 1 ≠ 8; omega

theorem captureReadSp_mid {u : State} (d : Bool) (h : u.slotIdx % 8 ≠ 7) :
    captureReadSp d u = { u with sr := setBit u.sr (u.slotIdx % 8) d } := by
  unfold captureReadSp; simp only [h, if_false]

theorem captureReadSp_last {u : State} (d : Bool) (h : u.slotIdx % 8 = 7) :
    captureReadSp d u = { u with sr := 0x00#8, sp := u.sp.setIfInBounds (u.slotIdx / 8) (setBit u.sr 7 d) } := by
  unfold captureReadSp; simp only [h, if_true]; rfl

/-- The SP buffer and `sr` after the samples `ds` of READ_SP, `old` being the buffer at acceptance: the finished bytes
hold their samples, the rest are as before, and `sr` holds the samples of the byte under way. -/
structure SpAfter (old : Vector Byte 9) (ds : List Bool) (sp : Vector Byte 9) (r : Byte) : Prop where
  done : ∀ j (h : j < 9), 8 * j + 8 ≤ ds.length → ∀ i, i < 8 → sp[j].getLsbD i = ds.getD (8 * j + i) false
  todo : ∀ j (h : j < 9), ds.length < 8 * j + 8 → sp[j] = old[j]
  part : ∀ i, i < ds.length % 8 → r.getLsbD i = ds.getD (ds.length / 8 * 8 + i) false
  zero : ds.length % 8 = 0 → r = 0

theorem SpAfter.nil (old : Vector Byte 9) : SpAfter old [] old 0 := ⟨by simp, by simp, by simp, by simp⟩

/-- One more sample of READ_SP. -/
theorem SpAfter.snoc {old sp : Vector Byte 9} {ds : List Bool} {r : Byte} (d : Bool)
    (h : SpAfter old ds sp r) :
    (ds.length % 8 ≠ 7 → SpAfter old (ds ++ [d]) sp (setBit r (ds.length % 8) d)) ∧
    (ds.length % 8 = 7 → SpAfter old (ds ++ [d]) (sp.setIfInBounds (ds.length / 8) (setBit r 7 d)) 0) := by
  have hd : ∀ n, n < ds.length → (ds ++ [d]).getD n false = ds.getD n false :=
      fun n hn => List.getD_append _ _ _ _ hn
  have hd' : (ds ++ [d]).getD ds.length false = d := by simp
  constructor <;> intro h7 <;> constructor <;> simp only [List.length_append, List.length_singleton]
  · intro j hj hle i hi
    rw [hd _ (by omega)]; exact h.done j hj (by omega) i hi
  · intro j hj hlt; exact h.todo j hj (by omega)
  · intro i hi
    rw [getLsbD_setBit _ _ _ _ (by omega)]
    split
    · subst i; rw [show (ds.length + 1) / 8 * 8 + ds.length % 8 = ds.length by omega, hd']
    · rw [h.part i (by omega), hd _ (by omega)]; congr 1; omega
  · omega
  · intro j hj hle i hi
    rw [Vector.getElem_setIfInBounds]
    split
    · subst j; rw [getLsbD_setBit _ _ _ _ (by omega)]
      split
      · subst i; rw [show 8 * (ds.length / 8) + 7 = ds.length by omega, hd']
      · rw [h.part i (by omega), hd _ (by omega)]; congr 1; omega
    · rw [hd _ (by omega)]; exact h.done j hj (by omega) i hi
  · intro j hj hlt
    rw [Vector.getElem_setIfInBounds, if_neg (by omega)]; exact h.todo j hj (by omega)
  · omega
  · simp

/-- READ_SP after fewer than 72 samples. -/
theorem readSp_course {ign : Byte} (s t : State) (ht : t = (s.accept .readSp ign).clearVerdict) (ds : List Bool)
    (hl : ds.length < 72) :
    ∃ sp r, SpAfter s.sp ds sp r ∧ t.slotSteps ds = { t with slotIdx := ds.length, sr := r, sp := sp } := by
  induction ds using List.reverseRecOn with
  | nil => subst ht; exact ⟨s.sp, 0, .nil _, rfl⟩
  | append_singleton ds d ih =>
    rw [List.length_append, List.length_singleton] at hl
    obtain ⟨sp, r, hsp, e⟩ := ih (by omega)
    have hstep : t.slotSteps (ds ++ [d]) = { captureReadSp d (t.slotSteps ds) with
          slotIdx := (t.slotSteps ds).slotIdx + 1 } := by
      have hop : (t.slotSteps ds).curOp = .readSp := by rw [e, ht]; rfl
      rw [State.slotSteps_append, State.slotStep_read_mid]
      · simp only [State.capture, hop]
      · simp [State.kind, hop, Op.slotKind]
      · rw [e, ht]; rfl
      · rw [e, ht]; rfl
      · rw [e, ht]; exact State.accept_dqOe s .readSp ign
      · exact .inr hop
      · rw [hop, e]; show ds.length + 1 ≠ 72; omega
    have hs := hsp.snoc d
    by_cases h7 : ds.length % 8 = 7
    · refine ⟨_, _, hs.2 h7, ?_⟩
      rw [hstep, captureReadSp_last] <;> rw [e]
      · rw [List.length_append]; rfl
      · exact h7
    · refine ⟨_, _, hs.1 h7, ?_⟩
      rw [hstep, captureReadSp_mid] <;> rw [e]
      · rw [List.length_append]; rfl
      · exact h7

end Sys2Proof.Machine
end

