-- ==== Sys2Proof/Laws/Engine.lean ====
section
/-! SUPPORT. The controller as a whole: what it never changes, and everything one clock cycle of it can do. -/

namespace Sys2Proof.Machine

theorem Config.usDiv_pos : 0 < Config.usDiv := Nat.succ_pos _

theorem Config.vCycles_pos : 0 < Config.vCycles := Nat.succ_pos _

/-- What the controller never changes: the enables, the errors, RANGE, the latches of acceptance, the ports and the model's
own fields. -/
structure ControllerFrame (s t : State) : Prop where
  ieDone : t.ieDone = s.ieDone
  ieErr : t.ieErr = s.ieErr
  rangeEn : t.rangeEn = s.rangeEn
  errCmd : t.errCmd = s.errCmd
  errBusy : t.errBusy = s.errBusy
  rangeLo : t.rangeLo = s.rangeLo
  rangeHi : t.rangeHi = s.rangeHi
  curData : t.curData = s.curData
  rangeEnL : t.rangeEnL = s.rangeEnL
  viol : t.viol = s.viol
  rstN : t.rstN = s.rstN
  hRdata : t.hRdata = s.hRdata
  inputs : t.inputs = s.inputs
  draws : t.draws = s.draws

theorem State.slotStep_frame (s : State) (d : Bool) : ControllerFrame s (s.slotStep d) := by
  unfold State.slotStep
  split <;> constructor <;> simp

theorem State.tick_frame (s : State) (d : Bool) : ControllerFrame s (s.tick d) := by
  unfold State.tick
  split
  · constructor <;> rfl
  · split
    · constructor <;> simp
    · split <;> constructor <;> simp

theorem State.cycle_frame (s : State) (d : Bool) : ControllerFrame s (s.cycle d) := by
  unfold State.cycle
  have h : ControllerFrame s ((s.setPre 0).tick d) := by
    have := State.tick_frame (s.setPre 0) d
    exact ⟨this.1, this.2, this.3, this.4, this.5, this.6, this.7, this.8, this.9, this.10, this.11, this.12,
        this.13, this.14⟩
  split
  · constructor <;> rfl
  · split <;> constructor <;> simp
  all_goals
    split
    · exact h
    · constructor <;> rfl

theorem State.clockEdge_frame (s : State) (l : Bool) : ControllerFrame s (s.clockEdge l) := by
  unfold State.clockEdge
  split
  · have := State.cycle_frame (s.shiftSync (s.dqIn l)) (s.syncedLine l)
    exact ⟨this.1, this.2, this.3, this.4, this.5, this.6, this.7, this.8, this.9, this.10, this.11, this.12,
        this.13, this.14⟩
  · constructor <;> rfl

theorem State.sampleNow_nextUs {s : State} {k : SlotKind} (hk : s.kind = some k) :
    (s.nextUs).sampleNow = true ↔ k.sampleAt = some (s.tUs + 1) := by
  have : s.nextUs.kind = some k := hk
  unfold State.sampleNow; rw [this]; simp

/-- Everything one clock cycle of the controller can do (R111, R113, R170). -/
inductive CycleCase (d : Bool) (s t : State) : Prop where
  | idle (ho : s.curOp = .idle) (ht : t = s)
  | count (ho : s.curOp = .validate) (hv : s.vCnt + 1 ≠ Config.vCycles) (ht : t = s.setVCnt (s.vCnt + 1))
  | validated (ho : s.curOp = .validate) (hv : s.vCnt + 1 = Config.vCycles) (ht : t = s.complete)
  | wait (k : SlotKind) (hk : s.kind = some k) (hp : s.pre + 1 ≠ Config.usDiv) (ht : t = s.setPre (s.pre + 1))
  | us (k : SlotKind) (hk : s.kind = some k) (hp : s.pre + 1 = Config.usDiv) (hu : s.tUs + 1 ≠ k.total)
      (hn : k.sampleAt ≠ some (s.tUs + 1))
      (ht : t = (s.setPre 0).nextUs.drive)
  | sample (k : SlotKind) (hk : s.kind = some k) (hp : s.pre + 1 = Config.usDiv) (hu : s.tUs + 1 ≠ k.total)
      (hn : k.sampleAt = some (s.tUs + 1))
      (ht : t = (s.setPre 0).nextUs.drive.capture d)
  | slotEnd (k : SlotKind) (hk : s.kind = some k) (hp : s.pre + 1 = Config.usDiv) (hu : s.tUs + 1 = k.total)
      (ht : t = (s.setPre 0).endSlot)

theorem State.cycle_cases (d : Bool) (s : State) : CycleCase d s (s.cycle d) := by
  by_cases hi : s.curOp = .idle
  · exact .idle hi (by unfold State.cycle; rw [hi])
  by_cases hv : s.curOp = .validate
  · by_cases hn : s.vCnt + 1 = Config.vCycles
    · exact .validated hv hn (by unfold State.cycle; simp only [hv, hn, if_true])
    · exact .count hv hn (by unfold State.cycle; simp only [hv, hn, if_false])
  obtain ⟨k, hk⟩ := State.kind_some_of_bus hi hv
  have e : s.cycle d = if s.pre + 1 = Config.usDiv then (s.setPre 0).tick d else s.setPre (s.pre + 1) := by
    unfold State.cycle
    split <;> first | contradiction | rfl
  by_cases hp : s.pre + 1 = Config.usDiv
  · rw [e, if_pos hp]
    have hk' : (s.setPre 0).kind = some k := hk
    unfold State.tick
    rw [hk']
    dsimp only
    by_cases hu : s.tUs + 1 = k.total
    · rw [if_pos (by exact hu)]; exact .slotEnd k hk hp hu rfl
    · rw [if_neg (by exact hu)]
      have hs := State.sampleNow_nextUs hk'
      split
      next h => exact .sample k hk hp hu (hs.1 h) rfl
      next h => exact .us k hk hp hu (fun e => h (hs.2 e)) rfl
  · rw [e, if_neg hp]; exact .wait k hk hp rfl

theorem State.cycle_idle {s : State} (h : s.curOp = .idle) (d : Bool) : s.cycle d = s := by
  unfold State.cycle; rw [h]

theorem State.tick_sync (s : State) (d : Bool) : (s.tick d).sync = s.sync := by
  unfold State.tick
  split
  · rfl
  · split
    · simp
    · split <;> simp

theorem State.cycle_sync (s : State) (d : Bool) : (s.cycle d).sync = s.sync := by
  cases State.cycle_cases d s with
  | idle _ h => rw [h]
  | count _ _ h => rw [h]; rfl
  | validated _ _ h => rw [h]; simp
  | wait _ _ _ h => rw [h]; rfl
  | us _ _ _ _ _ h => rw [h]; rfl
  | sample _ _ _ _ _ h => rw [h]; simp
  | slotEnd _ _ _ _ h => rw [h]; simp

theorem State.clockEdge_run {s : State} (hr : s.rstN = true) (l : Bool) :
    s.clockEdge l = State.cycle (s.syncedLine l) (s.shiftSync (s.dqIn l)) := by
  unfold State.clockEdge; rw [if_pos hr]

theorem State.clockEdge_sync {s : State} (hr : s.rstN = true) (l : Bool) :
    (s.clockEdge l).sync = (s.dqIn l :: s.sync).dropLast := by
  rw [State.clockEdge_run hr, State.cycle_sync]; rfl

theorem State.clockEdges_nil (s : State) : s.clockEdges [] = s := rfl

theorem State.clockEdges_append (s : State) (ls : List Bool) (l : Bool) :
    s.clockEdges (ls ++ [l]) = (s.clockEdges ls).clockEdge l := by
  simp [State.clockEdges]

theorem State.clockEdges_rstN (s : State) (ls : List Bool) : (s.clockEdges ls).rstN = s.rstN := by
  induction ls using List.reverseRecOn with
  | nil => rfl
  | append_singleton ls l ih => rw [State.clockEdges_append, (State.clockEdge_frame _ _).rstN, ih]

theorem State.clockEdges_sync_length {s : State} (hr : s.rstN = true) (ls : List Bool) :
    (s.clockEdges ls).sync.length = s.sync.length := by
  induction ls using List.reverseRecOn with
  | nil => rfl
  | append_singleton ls l ih => 
    rw [State.clockEdges_append, State.clockEdge_sync (by rw [State.clockEdges_rstN, hr])]; simp [ih]

/-- The synchronizer is a shift register: stage `j` holds the line as it was `j + 1` edges ago. -/
theorem State.clockEdges_sync {s : State} (hr : s.rstN = true) (ls : List Bool) (j i : Nat)
    (hj : j < s.sync.length) (hi : i + j + 1 = ls.length) :
    (s.clockEdges ls).sync[j]? = some ((s.clockEdges (ls.take i)).dqIn (ls.getD i false)) := by
  induction ls using List.reverseRecOn generalizing j with
  | nil => simp at hi
  | append_singleton ls l ih =>
    rw [List.length_append, List.length_singleton] at hi
    rw [State.clockEdges_append, State.clockEdge_sync (by rw [State.clockEdges_rstN, hr]), List.getElem?_dropLast,
        List.length_cons, State.clockEdges_sync_length hr, if_pos (by omega)]
    cases j with
    | zero => 
      have : i = ls.length := by omega
      subst this
      simp
    | succ j =>
      rw [List.getElem?_cons_succ, ih j (by omega) (by omega), List.take_append_of_le_length (by omega),
          List.getD_append _ _ _ _ (by omega)]

theorem State.syncedLine_zero {s : State} (h : s.sync.length = 0) (l : Bool) : s.syncedLine l = s.dqIn l := by
  unfold State.syncedLine
  simp [List.length_eq_zero_iff.1 h]

theorem State.syncedLine_eq {s : State} (h : s.sync.length = n + 1) (l : Bool) :
    some (s.syncedLine l) = s.sync[n]? := by
  unfold State.syncedLine
  rw [List.getLast_cons (by intro e; simp [e] at h), List.getLast_eq_getElem]
  simp [h]

end Sys2Proof.Machine
end

