-- ==== Sys2Proof/Laws/Invariant.lean ====
section
/-! SUPPORT. Which operations keep the invariant of Safety.lean. -/

namespace Sys2Proof.Machine

theorem State.AtReset_resetBlock (s : State) : s.resetBlock.AtReset := rfl

theorem Inv.of_resetBlock (s : State) : Inv s.resetBlock := by
  constructor <;> simp [State.kind, Op.slotKind, State.lowPhase, Config.usDiv, Config.vCycles]
  exact fun _ => State.AtReset_resetBlock s

theorem State.AtReset.inv {s : State} (h : s.AtReset) : Inv s := by
  have := Inv.of_resetBlock s
  rwa [show s.resetBlock = s from h] at this

/-- The invariant reads these fields only, out of reset. -/
theorem Inv.congr {s t : State} (h : Inv s) (hr : t.rstN = true) (e : t = { t with 
     busy := s.busy, curOp := s.curOp, curData := s.curData, dqOe := s.dqOe, valid := s.valid, result := s.result,
         crcOk := s.crcOk,
     slotIdx := s.slotIdx, tUs := s.tUs, pre := s.pre, vCnt := s.vCnt, sync := s.sync }) : Inv t := by
  rw [e]
  exact ⟨h.busy_iff, h.drive_eq, h.valid_iff, h.crc_ok, h.slot_lt, h.slot_zero, h.time_lt, h.time_zero, h.pre_lt,
      h.pre_zero, h.vcnt_lt, h.vcnt_zero, h.sync_length, h.sync_low, fun h => absurd (hr.symm.trans h) (by simp)⟩

theorem Inv.accept {s : State} (h : Inv s) (hr : s.rstN = true) {op : Op} (ho : op ≠ .idle) (data : Byte) :
    Inv (s.accept op data) := by
  have hk : (s.accept op data).kind = op.slotKind data 0 := rfl
  refine ⟨⟨fun _ => ho, fun _ => rfl⟩, rfl, h.valid_iff, h.crc_ok, ?_, fun _ => rfl, fun k _ => k.total_pos,
      fun _ => rfl, Config.usDiv_pos, fun _ => rfl, Config.vCycles_pos, fun _ => rfl, h.sync_length, ?_, ?_⟩
  · intro hn; rw [hk] at hn; exact Op.slots_pos hn
  · intro _ j hj; exact absurd hj (by simp [State.slotClks, State.accept])
  · intro h'; exact absurd (hr.symm.trans h') (by simp)

theorem Inv.clearVerdict {s : State} (h : Inv s) (hr : s.rstN = true) : Inv s.clearVerdict :=
  ⟨h.busy_iff, h.drive_eq, by simp [State.clearVerdict], by simp [State.clearVerdict], h.slot_lt, h.slot_zero,
      h.time_lt, h.time_zero, h.pre_lt, h.pre_zero, h.vcnt_lt, h.vcnt_zero, h.sync_length, h.sync_low,
      fun h => absurd (hr.symm.trans h) (by simp)⟩

theorem verdict_crcMismatch {c e : Byte} {raw lo hi : Half} {on : Bool} : Machine.verdict c e raw on lo hi = .crcMismatch ↔ c ≠ e := by
  unfold Machine.verdict
  split
  · simp [*]
  next h => repeat' split
            all_goals simp [h]

theorem verdict_ne_none {c e : Byte} {raw lo hi : Half} {on : Bool} : Machine.verdict c e raw on lo hi ≠ .none := by
  unfold Machine.verdict
  repeat' split
  all_goals simp

theorem Inv.complete {s : State} (hr : s.rstN = true) (ho : s.curOp ≠ .idle) (hp : s.pre = 0)
    (hv : s.curOp ≠ .validate → s.vCnt = 0)
    (h1 : s.sync.length = Config.syncClks) (h2 : s.valid = true ↔ s.result = .ok) (h3 : s.crcOk = true →
        s.result ≠ .none ∧ s.result ≠ .crcMismatch) :
    Inv s.complete := by
  obtain ⟨e1, e2, e3, e4, e5, e6⟩ := State.complete_idle ho
  have hk : s.complete.kind = none := State.kind_none_iff.2 (.inl e1)
  have hv' : s.complete.vCnt = 0 := by
    unfold State.complete
    cases hc : s.curOp <;> first | exact hv (by simp [hc]) | rfl
  have hval : (s.complete.valid = true ↔ s.complete.result = .ok) ∧ (s.complete.crcOk = true →
      s.complete.result ≠ .none ∧ s.complete.result ≠ .crcMismatch) := by
    unfold State.complete
    cases hc : s.curOp <;> try exact ⟨h2, h3⟩
    constructor
    · simp [completeValidate, State.finish]
    · intro h
      have hc : (s.crcNow == s.sp[8]) = true := h
      exact ⟨verdict_ne_none, fun e => verdict_crcMismatch.1 e (by simpa using hc)⟩
  refine ⟨by simp [e1, e2], ?_, hval.1, hval.2, by simp [hk], fun _ => e5, by simp [hk], fun _ => e6, ?_, ?_, ?_,
      fun _ => hv', by simpa using h1, ?_, ?_⟩
  · rw [e4]; unfold State.lowPhase; rw [hk]
  · rw [State.complete_pre, hp]; exact Config.usDiv_pos
  · intro _; rw [State.complete_pre, hp]
  · rw [hv']; exact Config.vCycles_pos
  · intro h; rw [e4] at h; cases h
  · intro h; rw [State.complete_rstN, hr] at h; cases h

/-- The end of a slot, from a state that differs from one with the invariant in the samples and the time only. -/
theorem Inv.endSlot {s : State} (h : Inv s) (hr : s.rstN = true) (hk : s.kind ≠ none) (u : State)
    (hu : u = { s with sr := u.sr, presenceL := u.presenceL, sp := u.sp, pre := 0, sync := u.sync })
        (hs : u.sync.length = Config.syncClks) : Inv u.endSlot := by
  have hop : s.curOp ≠ .idle := fun e => hk (by simp [State.kind_none_iff, e])
  have hop' : s.curOp ≠ .validate := fun e => hk (by simp [State.kind_none_iff, e])
  have e1 : u.curOp = s.curOp := by rw [hu]
  have e2 : u.slotIdx = s.slotIdx := by rw [hu]
  have e3 : u.curData = s.curData := by rw [hu]
  have e4 : u.rstN = s.rstN := by rw [hu]
  have e5 : u.vCnt = s.vCnt := by rw [hu]
  have e6 : u.pre = 0 := by rw [hu]
  have e7 : u.valid = s.valid := by rw [hu]
  have e8 : u.result = s.result := by rw [hu]
  have e9 : u.crcOk = s.crcOk := by rw [hu]
  have e10 : u.busy = s.busy := by rw [hu]
  clear hu
  unfold State.endSlot
  split
  · apply Inv.complete <;> simp [State.nextSlot, e1, e4, e5, e6, e7, e8, e9, hr, hop, hs, h.valid_iff]
    · exact fun hn => h.vcnt_zero hn
    · exact h.crc_ok
  next hn =>
    have hlt := h.slot_lt hk
    have hkk : u.nextSlot.drive.kind = s.curOp.slotKind s.curData (s.slotIdx + 1) := by simp [State.kind,
        State.nextSlot, State.drive, e1, e2, e3]
    have hkn : u.nextSlot.drive.kind ≠ none := by rw [hkk]; rwa [Ne, Op.slotKind_none _ _ _ s.slotIdx]
    constructor
    · simp [State.nextSlot, State.drive, e1, e10, h.busy_iff]
    · rfl
    · simp [State.nextSlot, State.drive, e7, e8, h.valid_iff]
    · simp only [State.nextSlot, State.drive, e8, e9]; exact h.crc_ok
    · intro _; simp [State.nextSlot, State.drive, e1, e2] at *; omega
    · intro h'; exact absurd h' hkn
    · intro k _; simp [State.nextSlot, State.drive, SlotKind.total_pos]
    · intro h'; exact absurd h' hkn
    · simp [State.nextSlot, State.drive, e6, Config.usDiv_pos]
    · intro h'; exact absurd h' hkn
    · simp only [State.nextSlot, State.drive, e5]; exact h.vcnt_lt
    · intro _; simp only [State.nextSlot, State.drive, e5]; exact h.vcnt_zero hop'
    · exact hs
    · intro _ j hj; simp [State.slotClks, State.nextSlot, State.drive, e6] at hj
    · simp [State.nextSlot, State.drive, e4, hr]

theorem Inv.slotStep {s : State} (h : Inv s) (d : Bool) : Inv (s.slotStep d) := by
  by_cases hr : s.rstN = false
  · have h0 := h.held_in_reset hr
    have hop : s.curOp = .idle := by rw [← show s.resetBlock = s from h0]; rfl
    have : s.slotStep d = s := by
      unfold State.slotStep; simp [State.kind, hop, Op.slotKind, State.complete]
    rwa [this]
  · replace hr : s.rstN = true := by simpa using hr
    unfold State.slotStep
    split
    next k hk =>
      apply h.endSlot hr (by simp [hk])
      · unfold State.takeSample; split
        · rw [State.capture_eq]; rfl
        · rfl
      · simpa using h.sync_length
    next hk =>
      by_cases hop : s.curOp = .idle
      · simpa [State.complete, hop] using h
      · exact .complete hr hop (h.pre_zero hk) h.vcnt_zero h.sync_length h.valid_iff h.crc_ok

/-- A state inside the same slot as one with the invariant. -/
theorem Inv.of_slot {s w : State} {k : SlotKind} (h : Inv s) (hk : s.kind = some k) (hr : w.rstN = true)
    (e2 : w.busy = s.busy) (e3 : w.curOp = s.curOp)
    (e4 : w.curData = s.curData) (e5 : w.valid = s.valid) (e6 : w.result = s.result) (e7 : w.crcOk = s.crcOk)
        (e8 : w.vCnt = s.vCnt) (e9 : w.slotIdx = s.slotIdx)
    (ht : w.tUs < k.total) (hp : w.pre < Config.usDiv) (hd : w.dqOe = decide (w.tUs < k.low))
        (hl : w.sync.length = Config.syncClks)
    (hs : w.dqOe = true → ∀ j, j < w.slotClks → j < Config.syncClks → w.sync[j]? = some false) : Inv w := by
  have hk' : w.kind = some k := by rw [← hk]; unfold State.kind; rw [e3, e4, e9]
  have hn : w.kind ≠ none := by rw [hk']; simp
  refine ⟨by rw [e2, e3]; exact h.busy_iff, by rw [hd, State.lowPhase_eq hk'], by rw [e5, e6]; exact h.valid_iff,
      by rw [e6, e7]; exact h.crc_ok,
    fun _ => by rw [e9, e3]; exact h.slot_lt (by rw [hk]; simp), fun h' => absurd h' hn, fun k2 h2 => ?_,
        fun h' => absurd h' hn, hp, fun h' => absurd h' hn,
    by rw [e8]; exact h.vcnt_lt, by rw [e8, e3]; exact h.vcnt_zero, hl, hs, fun h' => absurd (hr.symm.trans h')
        (by simp)⟩
  rw [hk'] at h2
  cases h2
  exact ht

theorem Inv.cycle {s : State} (h : Inv s) (hr : s.rstN = true) (d line : Bool) :
    Inv (State.cycle d (s.shiftSync (s.dqIn line))) := by
  have hl : (s.shiftSync (s.dqIn line)).sync.length = Config.syncClks := by simp [State.shiftSync, h.sync_length]
  have hsh : ∀ n, s.slotClks + 1 = n → s.dqOe = true → ∀ j, j < n → j < Config.syncClks →
      (s.shiftSync (s.dqIn line)).sync[j]? = some false := by
    intro n hn hdq j hj hj'
    have hd : s.dqIn line = false := by simp [State.dqIn, hdq]
    show ((s.dqIn line :: s.sync).dropLast)[j]? = _
    rw [List.getElem?_dropLast, List.length_cons, h.sync_length, if_pos (by omega), hd]
    cases j with
    | zero => rfl
    | succ j => exact h.sync_low hdq j (by omega) (by omega)
  have cases := State.cycle_cases d (s.shiftSync (s.dqIn line))
  generalize hu : s.shiftSync (s.dqIn line) = u at *
  have e : u = { s with sync := u.sync } := by rw [← hu]; rfl
  have hkind : u.kind = s.kind := by rw [e]; rfl
  have hdk : s.dqOe = true → s.kind ≠ none := by
    intro hd hn; rw [h.drive_eq] at hd; unfold State.lowPhase at hd; rw [hn] at hd; cases hd
  have hlow : s.dqOe = true → ∀ n, s.slotClks + 1 = n → ∀ j, j < n → j < Config.syncClks →
      u.sync[j]? = some false := fun hd n hn => hsh n hn hd
  have e1 : u.rstN = true := by rw [← hu]; exact hr
  have e2 : u.busy = s.busy := by rw [← hu]; rfl
  have e3 : u.curOp = s.curOp := by rw [← hu]; rfl
  have e4 : u.curData = s.curData := by rw [← hu]; rfl
  have e5 : u.valid = s.valid := by rw [← hu]; rfl
  have e6 : u.result = s.result := by rw [← hu]; rfl
  have e7 : u.crcOk = s.crcOk := by rw [← hu]; rfl
  have e8 : u.vCnt = s.vCnt := by rw [← hu]; rfl
  have e9 : u.slotIdx = s.slotIdx := by rw [← hu]; rfl
  have e10 : u.tUs = s.tUs := by rw [← hu]; rfl
  have e11 : u.pre = s.pre := by rw [← hu]; rfl
  have e12 : u.dqOe = s.dqOe := by rw [← hu]; rfl
  clear hsh hu
  have hidle : s.kind = none → ∀ v, v < Config.vCycles → (s.curOp ≠ .validate → v = 0) → Inv (u.setVCnt v) := by
    intro hn v hv hv0
    have hdq : s.dqOe = false := by cases hd : s.dqOe; rfl; exact absurd hn (hdk hd)
    have hkn : (u.setVCnt v).kind = none := hkind.trans hn
    refine ⟨by simpa [e2, e3] using h.busy_iff, ?_, by simpa [e5, e6] using h.valid_iff, by simpa [e6,
        e7] using h.crc_ok, fun h' => absurd hkn h',
      fun _ => e9.trans (h.slot_zero hn), fun k hk => absurd (hk.symm.trans hkn) (by simp),
          fun _ => e10.trans (h.time_zero hn),
      by simpa [e11] using h.pre_lt, fun _ => e11.trans (h.pre_zero hn), hv, by simpa [e3] using hv0, hl,
          fun h' => ?_, fun h' => absurd (e1.symm.trans h') (by simp)⟩
    · rw [State.setVCnt_dqOe, e12, hdq]; unfold State.lowPhase; rw [hkn]
    · exact absurd ((e12.trans hdq).symm.trans h') (by simp)
  have hn : s.curOp = .idle ∨ s.curOp = .validate → s.kind = none := State.kind_none_iff.2
  cases cases with
  | idle ho ht =>
    have := hidle (hn (.inl (e3 ▸ ho))) s.vCnt h.vcnt_lt h.vcnt_zero
    rw [ht]
    rwa [show u.setVCnt s.vCnt = u by rw [← e8]; rfl] at this
  | count ho hv ht =>
    rw [ht]
    refine hidle (hn (.inr (e3 ▸ ho))) _ ?_ (fun h' => absurd (e3 ▸ ho) h')
    have := h.vcnt_lt; omega
  | validated ho hv ht =>
    rw [ht]
    have hk := hn (.inr (e3 ▸ ho))
    exact Inv.complete e1 (by simp [ho]) (e11.trans (h.pre_zero hk)) (fun h' => absurd ho h') hl
      (by rw [e5, e6]; exact h.valid_iff) (by rw [e6, e7]; exact h.crc_ok)
  | wait k hk hp ht =>
    rw [ht]
    have hk' := hkind.symm.trans hk
    refine h.of_slot hk' e1 e2 e3 e4 e5 e6 e7 e8 e9 ?_ ?_ ?_ hl ?_
    · exact e10.symm ▸ h.time_lt k hk'
    · have := h.pre_lt; show u.pre + 1 < _; omega
    · show u.dqOe = decide (u.tUs < k.low)
      rw [e12, e10, h.drive_eq, State.lowPhase_eq hk']
    · intro hd
      have hd' : s.dqOe = true := e12.symm.trans hd
      apply hlow hd'
      simp [State.slotClks, e10, e11]; omega
  | slotEnd k hk hp hu' ht =>
    rw [ht]
    exact h.endSlot hr (by rw [hkind.symm.trans hk]; simp) _ (by rw [e]; rfl) hl
  | us k hk hp hu' hn ht =>
    rw [ht]
    have hk' := hkind.symm.trans hk
    have hlp : (u.setPre 0).nextUs.drive.dqOe = decide (u.tUs + 1 < k.low) := State.lowPhase_eq (s :=
        (u.setPre 0).nextUs) hk
    refine h.of_slot hk' e1 e2 e3 e4 e5 e6 e7 e8 e9 ?_ Config.usDiv_pos hlp hl ?_
    · have := h.time_lt k hk'; show u.tUs + 1 < _; omega
    · intro hd
      rw [hlp] at hd
      have hd' : s.dqOe = true := by rw [h.drive_eq, State.lowPhase_eq hk']; simp at hd ⊢; omega
      apply hlow hd'
      simp [State.slotClks, e10, Nat.mul_add]; omega
  | sample k hk hp hu' hn ht =>
    rw [ht]
    have hk' := hkind.symm.trans hk
    have hlp : ((u.setPre 0).nextUs.drive.capture d).dqOe = decide (u.tUs + 1 < k.low) := by
      rw [State.capture_dqOe]; exact State.lowPhase_eq (s := (u.setPre 0).nextUs) hk
    refine h.of_slot hk' (by simpa) (by simpa) (by simpa) (by simpa) (by simpa) (by simpa) (by simpa) (by simpa)
        (by simpa) ?_ (by simpa using Config.usDiv_pos) (by simpa using hlp) (by simpa using hl) ?_
    · have := h.time_lt k hk'; simp; omega
    · intro hd
      rw [hlp] at hd
      have hd' : s.dqOe = true := by rw [h.drive_eq, State.lowPhase_eq hk']; simp at hd ⊢; omega
      simp only [State.capture_sync]
      apply hlow hd'
      simp [State.slotClks, e10, Nat.mul_add]; omega

theorem Inv.clockEdge {s : State} (h : Inv s) (line : Bool) : Inv (s.clockEdge line) := by
  unfold State.clockEdge
  split
  next hr => exact h.cycle hr _ _
  · exact h

theorem Inv.clockEdges {s : State} (h : Inv s) (ls : List Bool) : Inv (s.clockEdges ls) := by
  induction ls using List.reverseRecOn with
  | nil => exact h
  | append_singleton ls l ih => rw [State.clockEdges_append]; exact ih.clockEdge l

theorem Inv.viol {s : State} (h : Inv s) (b : Bool) : Inv { s with viol := b } := by
  have hh := h.held_in_reset
  refine ⟨h.busy_iff, h.drive_eq, h.valid_iff, h.crc_ok, h.slot_lt, h.slot_zero, h.time_lt, h.time_zero, h.pre_lt,
      h.pre_zero, h.vcnt_lt, h.vcnt_zero, h.sync_length, h.sync_low, fun hr => ?_⟩
  have := hh hr
  exact congrArg (fun u : State => { u with viol := b }) this

theorem Inv.consume {s : State} (h : Inv s) : Inv s.consume := by
  have hh := h.held_in_reset
  refine ⟨h.busy_iff, h.drive_eq, h.valid_iff, h.crc_ok, h.slot_lt, h.slot_zero, h.time_lt, h.time_zero, h.pre_lt,
      h.pre_zero, h.vcnt_lt, h.vcnt_zero, h.sync_length, h.sync_low, fun hr => ?_⟩
  have := hh hr
  exact congrArg State.consume this

theorem Inv.countDraw {s : State} (h : Inv s) : Inv s.countDraw := by
  have hh := h.held_in_reset
  refine ⟨h.busy_iff, h.drive_eq, h.valid_iff, h.crc_ok, h.slot_lt, h.slot_zero, h.time_lt, h.time_zero, h.pre_lt,
      h.pre_zero, h.vcnt_lt, h.vcnt_zero, h.sync_length, h.sync_low, fun hr => ?_⟩
  have := hh hr
  exact congrArg State.countDraw this

theorem Inv.hRdata {s : State} (h : Inv s) (w : Word) : Inv { s with hRdata := w } := by
  have hh := h.held_in_reset
  refine ⟨h.busy_iff, h.drive_eq, h.valid_iff, h.crc_ok, h.slot_lt, h.slot_zero, h.time_lt, h.time_zero, h.pre_lt,
      h.pre_zero, h.vcnt_lt, h.vcnt_zero, h.sync_length, h.sync_low, fun hr => ?_⟩
  have := hh hr
  exact congrArg (fun u : State => { u with hRdata := w }) this

theorem Inv.setRstN {s : State} (h : Inv s) (l : Bool) : Inv (s.setRstN l) := by
  unfold State.setRstN
  split
  · by_cases hr : s.rstN = false
    · have h0 := h.held_in_reset hr
      refine State.AtReset.inv (s := { s with rstN := true }) ?_
      exact congrArg (fun u : State => { u with rstN := true }) (show s.resetBlock = s from h0)
    · have : ({ s with rstN := true } : State) = s := by rw [← show s.rstN = true by simpa using hr]
      rwa [this]
  · exact State.AtReset.inv (s := { s.resetBlock with rstN := false }) rfl

theorem Inv.exec {i : Instr} {s t : State} (h : Inv s) (hr : s.rstN = true) (e : exec i s = .next t) : Inv t := by
  rcases exec_cases e with ⟨_, rfl⟩ | ⟨_, rfl, _⟩ | ⟨_, rfl, _⟩
  · exact h.congr hr rfl
  · exact h.accept hr (by cases i <;> simp [opOf]) _
  · exact (h.accept hr (by simp) _).clearVerdict hr

theorem Inv.write {r : Reg} {v : Word} {s t : State} (h : Inv s) (hr : s.rstN = true) (e : WriteCase r v s t) :
    Inv t := by
  cases e with
  | softReset _ _ ht => rw [ht]; exact .of_resetBlock s
  | accept _ _ i _ ht => exact h.exec hr ht
  | sp _ _ ht => 
    rw [ht]; exact Inv.congr (h.clearVerdict hr) hr rfl
  | none _ ht => rwa [ht]
  | _ => subst t; exact h.congr hr rfl

theorem Inv.portAccess {a : Access} {line : Bool} {s t : State} (h : Inv s) (e : portAccess a line s = .next t) :
    Inv t := by
  rcases portAccess_cases e with ⟨hw, e⟩ | ⟨hw, hr, e⟩ | ⟨hw, hr, e⟩
  · rw [e]; exact h.hRdata _
  · rw [e]; exact h.viol _
  · exact Inv.write (s := s.noteReserved (regAt a.addr) a.wdata) (h.viol _) hr e

/-- An access to a busy block leaves the line drive alone. -/
theorem portAccess_dqIn {a : Access} {line l : Bool} {s t : State} (hb : s.busy = true)
    (ha : a.isSoftReset = false) (h : portAccess a line s = .next t) :
   t.dqIn l = s.dqIn l := by
  rcases portAccess_cases h with ⟨hw, e⟩ | ⟨hw, hr, e⟩ | ⟨hw, hr, e⟩
  · rw [e]; rfl
  · rw [e]; rfl
  · cases e with
    | softReset hr hv => rw [Access.isSoftReset, hw, hr, hv] at ha; cases ha
    | accept hb' => exact absurd (hb.symm.trans hb') (by simp)
    | sp hb' => exact absurd (hb.symm.trans hb') (by simp)
    | range hb' => exact absurd (hb.symm.trans hb') (by simp)
    | errCmd hb' => exact absurd (hb.symm.trans hb') (by simp)
    | _ => subst t; rfl

theorem Inv.shiftIdle {s : State} (h : Inv s) (hr : s.rstN = true) (hd : s.slotClks = 0 ∨ s.dqOe = false)
    (b : Bool) : Inv (s.shiftSync b) := by
  refine ⟨h.busy_iff, h.drive_eq, h.valid_iff, h.crc_ok, h.slot_lt, h.slot_zero, h.time_lt, h.time_zero, h.pre_lt,
      h.pre_zero, h.vcnt_lt, h.vcnt_zero, by simp [State.shiftSync, h.sync_length], ?_,
      fun h' => absurd (hr.symm.trans h') (by simp)⟩
  intro hdq j hj
  rcases hd with hd | hd
  · exact absurd (show j < s.slotClks from hj) (by omega)
  · exact absurd (hdq.symm.trans hd) (by simp)

theorem portAccess_idle_clks {a : Access} {line : Bool} {s t : State} (hi : Inv s) (hc : s.curOp = .idle)
    (h : portAccess a line s = .next t) :
   t.slotClks = 0 ∨ t.dqOe = false := by
  left
  have hk : s.kind = none := State.kind_none_iff.2 (.inl hc)
  have h0 : s.slotClks = 0 := by unfold State.slotClks; rw [hi.time_zero hk, hi.pre_zero hk]; rfl
  rcases portAccess_cases h with ⟨hw, e⟩ | ⟨hw, hr, e⟩ | ⟨hw, hr, e⟩
  · rw [e]; exact h0
  · rw [e]; exact h0
  · cases e with
    | softReset _ _ ht => rw [ht]; simp [State.slotClks]
    | accept _ _ i _ ht =>
      rcases exec_cases ht with ⟨_, rfl⟩ | ⟨_, rfl, _⟩ | ⟨_, rfl, _⟩ 
      · exact h0
      · simp [State.slotClks, State.accept]
      · simp [State.slotClks, State.accept]
    | sp _ _ ht => rw [ht]; exact h0
    | _ => subst t; exact h0

theorem Inv.clockAccess {a : Access} {line : Bool} {s t : State} (h : Inv s) (e : clockAccess a line s = .next t) :
    Inv t := by
  obtain ⟨u, hu, hc⟩ := clockAccess_cases e
  have hinv := h.portAccess hu
  have hrs := portAccess_rstN hu
  rcases hc with ⟨_, rfl⟩ | ⟨_, _, rfl⟩ | ⟨hr, _, ho, rfl⟩ | ⟨hr, hs, ho, rfl⟩
  · exact hinv
  · exact hinv
  · exact hinv.shiftIdle (hrs.trans hr) (portAccess_idle_clks h ho hu) _
  · rw [← portAccess_dqIn (h.busy_iff.2 ho) hs hu]
    exact hinv.cycle (hrs.trans hr) _ _

end Sys2Proof.Machine
end

