-- ==== Sys2Proof/Laws/Clocked.lean ====
section
/-! SUPPORT. Clock edges inside a slot and at its end: where the time stands, which edge samples, and what a run of edges
leaves. -/

namespace Sys2Proof.Machine

theorem slotClks_lt {s : State} (h : s.pre < Config.usDiv) (t : Nat) : s.slotClks < t * Config.usDiv ↔ s.tUs < t := by
  unfold State.slotClks
  rw [Nat.mul_comm t]
  constructor
  · intro h'; exact Nat.lt_of_mul_lt_mul_left (a := Config.usDiv) (by omega)
  · intro h'; have := Nat.mul_le_mul_left Config.usDiv (show s.tUs + 1 ≤ t from h'); rw [Nat.mul_add] at this; omega

theorem slotClks_us {s : State} (h : s.pre + 1 = Config.usDiv) : s.slotClks + 1 = (s.tUs + 1) * Config.usDiv := by
  unfold State.slotClks; rw [Nat.mul_comm (s.tUs + 1), Nat.mul_add]; omega

theorem slotClks_ne {s : State} (h : s.pre + 1 < Config.usDiv) (t : Nat) : s.slotClks + 1 ≠ t * Config.usDiv := by
  unfold State.slotClks
  intro e
  have := congrArg (· % Config.usDiv) e
  simp only [Nat.mul_mod_left] at this
  rw [Nat.add_assoc, Nat.mul_add_mod, Nat.mod_eq_of_lt h] at this
  omega

theorem samplePending_iff {s : State} {k : SlotKind} (h : s.pre < Config.usDiv) (hk : s.kind = some k) :
   s.samplePending = true ↔ ∃ t, k.sampleAt = some t ∧ s.slotClks < t * Config.usDiv := by
  unfold State.samplePending
  rw [hk]
  dsimp only
  cases hs : k.sampleAt with
  | none => simp
  | some t => simp [slotClks_lt h]

/-- The time fields and the synchronizer replaced. -/
def State.withTime (tUs pre : Nat) (dqOe : Bool) (sync : List Bool) (s : State) : State := { s with
      tUs := tUs, pre := pre, dqOe := dqOe, sync := sync }

/-- A sample does not read the time. -/
theorem State.capture_withTime (s : State) (a b : Nat) (c : Bool) (e : List Bool) (d : Bool) :
    (s.withTime a b c e).capture d = (s.capture d).withTime a b c e := by
  have h : (s.withTime a b c e).curOp = s.curOp := rfl
  unfold State.capture
  rw [h]
  cases s.curOp <;> try rfl
  show captureReadSp d _ = _
  unfold captureReadSp
  have h : (s.withTime a b c e).slotIdx = s.slotIdx := rfl
  have h' : (s.withTime a b c e).sr = s.sr := rfl
  dsimp only
  rw [h, h']
  split <;> rfl

/-- The end of a slot does not read the time. -/
theorem endSlot_withTime (s : State) (a b : Nat) (c : Bool) (e : List Bool) (h : s.curOp ≠ .idle) :
    { (s.withTime a b c e).endSlot with sync := [], pre := 0 } = { s.endSlot with sync := [], pre := 0 } := by
  unfold State.endSlot
  have hc : (s.withTime a b c e).curOp = s.curOp := rfl
  have hi : (s.withTime a b c e).slotIdx = s.slotIdx := rfl
  rw [hc, hi]
  split
  · have h1 : (s.withTime a b c e).nextSlot = s.nextSlot.withTime 0 b c e := rfl
    rw [h1]
    unfold State.complete
    have hc : (s.nextSlot.withTime 0 b c e).curOp = s.nextSlot.curOp := rfl
    rw [hc]
    cases hh : s.nextSlot.curOp <;> first | exact absurd hh h | rfl
  · rfl

/-- A clock edge inside a slot. -/
theorem clockEdge_mid {s : State} {k : SlotKind} (h : Inv s) (hr : s.rstN = true) (hk : s.kind = some k)
    (hlt : s.slotClks + 1 < k.total * Config.usDiv) (l : Bool) :
    (s.clockEdge l).slotClks = s.slotClks + 1 ∧
    s.clockEdge l = { (if ∃ t, k.sampleAt = some t ∧
        s.slotClks + 1 = t * Config.usDiv then s.capture (s.syncedLine l) else s) with
      tUs := (s.clockEdge l).tUs, pre := (s.clockEdge l).pre, dqOe := (s.clockEdge l).dqOe,
          sync := (s.clockEdge l).sync } := by
  rw [State.clockEdge_run hr]
  have hkn : s.kind ≠ none := by rw [hk]; simp
  cases State.cycle_cases (s.syncedLine l) (s.shiftSync (s.dqIn l)) with
  | idle ho => exact absurd (State.kind_none_iff.2 (.inl ho)) hkn
  | count ho => exact absurd (State.kind_none_iff.2 (.inr ho)) hkn
  | validated ho => exact absurd (State.kind_none_iff.2 (.inr ho)) hkn
  | wait k' hk' hp ht =>
    have hp' : s.pre + 1 < Config.usDiv := by have := h.pre_lt; simp at hp; omega
    rw [ht, if_neg (fun ⟨t, _, e⟩ => slotClks_ne hp' t e)]
    exact ⟨rfl, rfl⟩
  | us k' hk' hp hu hn ht =>
    have : k' = k := Option.some.inj (hk'.symm.trans hk)
    subst this
    have e := slotClks_us (s := s) hp
    have hneg : ¬ ∃ t, k'.sampleAt = some t ∧ s.slotClks + 1 = t * Config.usDiv := by
      rintro ⟨t, h1, h2⟩
      apply hn
      rw [e] at h2
      have := Nat.eq_of_mul_eq_mul_right Config.usDiv_pos h2
      rw [h1, ← this]; rfl
    rw [ht, if_neg hneg]
    refine ⟨?_, by apply State.ext <;> simp⟩
    rw [e]; simp [State.slotClks, Nat.mul_comm]
  | sample k' hk' hp hu hn ht =>
    have : k' = k := Option.some.inj (hk'.symm.trans hk)
    subst this
    have e := slotClks_us (s := s) hp
    have hpos : ∃ t, k'.sampleAt = some t ∧ s.slotClks + 1 = t * Config.usDiv := ⟨_, hn, e⟩
    rw [ht, if_pos hpos]
    refine ⟨?_, ?_⟩
    · rw [e]; simp [State.slotClks, Nat.mul_comm]
    · generalize s.syncedLine l = d
      have e : (State.setPre 0 (s.shiftSync (s.dqIn l))).nextUs.drive = s.withTime (s.tUs + 1) 0
          (State.setPre 0 (s.shiftSync (s.dqIn l))).nextUs.lowPhase ((s.dqIn l :: s.sync).dropLast) := by
        apply State.ext <;> simp [State.withTime]
      rw [e, State.capture_withTime]
      apply State.ext <;> simp [State.withTime]
  | slotEnd k' hk' hp hu ht =>
    have : k' = k := Option.some.inj (hk'.symm.trans hk)
    subst this
    have e := slotClks_us (s := s) hp
    rw [show s.tUs + 1 = k'.total from hu] at e; omega

/-- The clock edge that ends a slot. -/
theorem clockEdge_last {s : State} {k : SlotKind} (h : Inv s) (hr : s.rstN = true) (hk : s.kind = some k)
    (hlt : s.slotClks + 1 = k.total * Config.usDiv) (l : Bool) :
    s.clockEdge l = ((s.shiftSync (s.dqIn l)).setPre 0).endSlot := by
  rw [State.clockEdge_run hr]
  have hkn : s.kind ≠ none := by rw [hk]; simp
  cases State.cycle_cases (s.syncedLine l) (s.shiftSync (s.dqIn l)) with
  | idle ho => exact absurd (State.kind_none_iff.2 (.inl ho)) hkn
  | count ho => exact absurd (State.kind_none_iff.2 (.inr ho)) hkn
  | validated ho => exact absurd (State.kind_none_iff.2 (.inr ho)) hkn
  | wait k' hk' hp ht =>
    have hp' : s.pre + 1 < Config.usDiv := by have := h.pre_lt; simp at hp; omega
    exact absurd hlt (slotClks_ne hp' _)
  | us k' hk' hp hu hn ht =>
    have : k' = k := Option.some.inj (hk'.symm.trans hk)
    subst this
    rw [slotClks_us (s := s) hp] at hlt
    exact absurd (Nat.eq_of_mul_eq_mul_right Config.usDiv_pos hlt) hu
  | sample k' hk' hp hu hn ht =>
    have : k' = k := Option.some.inj (hk'.symm.trans hk)
    subst this
    rw [slotClks_us (s := s) hp] at hlt
    exact absurd (Nat.eq_of_mul_eq_mul_right Config.usDiv_pos hlt) hu
  | slotEnd k' hk' hp hu ht => exact ht

/-- Clock edges inside a slot: time passes, and the sample is taken when its instant passes. -/
theorem clockEdges_mid {s : State} {k : SlotKind} (h : Inv s) (hr : s.rstN = true) (hk : s.kind = some k)
    (ls : List Bool)
    (hlt : s.slotClks + ls.length < k.total * Config.usDiv) :
    (s.clockEdges ls).slotClks = s.slotClks + ls.length ∧ (s.clockEdges ls).kind = some k ∧
    ∃ d, s.clockEdges ls = { (if ∃ t, k.sampleAt = some t ∧ s.slotClks < t * Config.usDiv ∧
        t * Config.usDiv ≤ s.slotClks + ls.length then s.capture d else s) with
      tUs := (s.clockEdges ls).tUs, pre := (s.clockEdges ls).pre, dqOe := (s.clockEdges ls).dqOe,
          sync := (s.clockEdges ls).sync } ∧
      ∀ t i, k.sampleAt = some t → s.slotClks + i + 1 = t * Config.usDiv → i < ls.length →
          d = (s.clockEdges (ls.take i)).syncedLine (ls.getD i false) := by
  induction ls using List.reverseRecOn with
  | nil =>
    refine ⟨rfl, hk, false, ?_, fun t i _ _ h => absurd h (by simp)⟩
    rw [if_neg]
    · rfl
    · rintro ⟨t, _, h1, h2⟩; simp at h2; omega
  | append_singleton ls l ih =>
    rw [List.length_append, List.length_singleton] at hlt
    obtain ⟨h1, h2, d, h3, h4⟩ := ih (by omega)
    obtain ⟨g1, g2⟩ := clockEdge_mid (h.clockEdges ls) (by rw [State.clockEdges_rstN, hr]) h2 (by omega) l
    rw [State.clockEdges_append]
    generalize hu : s.clockEdges ls = u at *
    have hcap : ∀ v w : State, w = { v with tUs := w.tUs, pre := w.pre, dqOe := w.dqOe, sync := w.sync } →
         ∀ d, w.capture d = { v.capture d with tUs := w.tUs, pre := w.pre, dqOe := w.dqOe, sync := w.sync } := by
      intro v w hw d
      have := State.capture_withTime v w.tUs w.pre w.dqOe w.sync d
      rwa [show v.withTime w.tUs w.pre w.dqOe w.sync = w from hw.symm] at this
    refine ⟨by rw [g1, h1, List.length_append, List.length_singleton]; omega, ?_, ?_⟩
    · rw [← h2, g2]; split <;> simp [State.kind]
    · by_cases hs : ∃ t, k.sampleAt = some t ∧ u.slotClks + 1 = t * Config.usDiv
      · obtain ⟨t, ht, he⟩ := hs
        have hno : ¬ ∃ t, k.sampleAt = some t ∧ s.slotClks < t * Config.usDiv ∧
            t * Config.usDiv ≤ s.slotClks + ls.length := by
          rintro ⟨t', ht', a, b⟩
          rw [ht] at ht'; cases ht'; omega
        rw [if_neg hno] at h3
        rw [if_pos ⟨t, ht, he⟩] at g2
        refine ⟨u.syncedLine l, ?_, ?_⟩
        · rw [if_pos ⟨t, ht, by omega, by rw [List.length_append, List.length_singleton]; omega⟩]
          rw [g2, hcap s u h3]
        · intro t' i ht' hi hil
          rw [ht] at ht'; cases ht'
          have : i = ls.length := by omega
          subst this
          simp [hu]
      · rw [if_neg hs] at g2
        refine ⟨d, ?_, ?_⟩
        · rw [g2, h3]
          have : (∃ t, k.sampleAt = some t ∧ s.slotClks < t * Config.usDiv ∧
              t * Config.usDiv ≤ s.slotClks + (ls ++ [l]).length) ↔
             (∃ t, k.sampleAt = some t ∧ s.slotClks < t * Config.usDiv ∧
                 t * Config.usDiv ≤ s.slotClks + ls.length) := by
            rw [List.length_append, List.length_singleton]
            constructor
            · rintro ⟨t, a, b, c⟩
              refine ⟨t, a, b, ?_⟩
              by_contra hc
              exact hs ⟨t, a, by omega⟩
            · rintro ⟨t, a, b, c⟩; exact ⟨t, a, b, by omega⟩
          simp only [this]
        · intro t i ht hi hil
          rw [List.length_append, List.length_singleton] at hil
          have hi' : i < ls.length := by
            by_contra hc
            have : i = ls.length := by omega
            subst this
            exact hs ⟨t, ht, by omega⟩
          rw [h4 t i ht hi hi', List.take_append_of_le_length (by omega), List.getD_append _ _ _ _ (by omega)]

/-- TOTAL of the slots of a bus command: all of one command are equally long. -/
def Op.slotUs : Op → Nat
  | .reset => 960
  | _ => 70

theorem total_eq {s : State} {k : SlotKind} (hk : s.kind = some k) : k.total = s.curOp.slotUs := by
  unfold State.kind at hk
  cases hc : s.curOp <;> rw [hc] at hk <;> simp [Op.slotKind] at hk <;> subst hk <;> first | rfl | (unfold writeSlot; split <;> rfl)

/-- Clock cycles since the running bus command was accepted. -/
def State.elapsed (s : State) : Nat := s.slotIdx * (s.curOp.slotUs * Config.usDiv) + s.slotClks

/-- A clock edge in a bus command: one more cycle has passed, or the command completes. -/
theorem bus_clockEdge {s : State} (h : Inv s) (hr : s.rstN = true) (ho : s.curOp ≠ .idle)
    (hv : s.curOp ≠ .validate) (l : Bool) :
    (s.elapsed + 1 < s.curOp.slots * (s.curOp.slotUs * Config.usDiv) ∧ (s.clockEdge l).busy = s.busy ∧
        (s.clockEdge l).done = s.done ∧ (s.clockEdge l).curOp = s.curOp ∧ (s.clockEdge l).elapsed = s.elapsed + 1) ∨
    (s.elapsed + 1 = s.curOp.slots * (s.curOp.slotUs * Config.usDiv) ∧ (s.clockEdge l).busy = false ∧
        (s.clockEdge l).done = true ∧ (s.clockEdge l).curOp = .idle) := by
  obtain ⟨k, hk⟩ := State.kind_some_of_bus ho hv
  have hT := total_eq hk
  have hsl := h.slot_lt (by simp [hk])
  have hlt := (slotClks_lt h.pre_lt k.total).2 (h.time_lt k hk)
  have hmul := Nat.mul_le_mul_right (s.curOp.slotUs * Config.usDiv) (show s.slotIdx + 1 ≤ s.curOp.slots from hsl)
  rw [Nat.add_mul, Nat.one_mul] at hmul
  by_cases hl : s.slotClks + 1 < k.total * Config.usDiv
  · left
    obtain ⟨g1, g2⟩ := clockEdge_mid h hr hk hl l
    have f1 : (s.clockEdge l).curOp = s.curOp := (congrArg State.curOp g2).trans (by split <;> simp)
    have f2 : (s.clockEdge l).slotIdx = s.slotIdx := (congrArg State.slotIdx g2).trans (by split <;> simp)
    refine ⟨?_, (congrArg State.busy g2).trans (by split <;> simp),
        (congrArg State.done g2).trans (by split <;> simp),
      f1, ?_⟩
    · unfold State.elapsed; rw [hT] at hl; omega
    · unfold State.elapsed; rw [f1, f2, g1]; omega
  · have hl' : s.slotClks + 1 = k.total * Config.usDiv := by omega
    have g := clockEdge_last h hr hk hl' l
    rw [hT] at hl'
    have e : s.elapsed + 1 = (s.slotIdx + 1) * (s.curOp.slotUs * Config.usDiv) :=
        by unfold State.elapsed; rw [Nat.add_mul]; omega
    rw [g]
    unfold State.endSlot
    split
    next hn =>
      right
      have hn : s.slotIdx + 1 = s.curOp.slots := hn
      obtain ⟨c1, c2, c3, _⟩ := State.complete_idle (s := (State.setPre 0 (s.shiftSync (s.dqIn l))).nextSlot) ho
      exact ⟨by rw [e, hn], c2, c3, c1⟩
    next hn =>
      left
      have hn : s.slotIdx + 1 ≠ s.curOp.slots := hn
      refine ⟨?_, by simp, by simp, by simp, ?_⟩
      · rw [e]
        apply Nat.mul_lt_mul_of_pos_right (by omega)
        rw [← hT]; exact Nat.mul_pos (SlotKind.total_pos k) Config.usDiv_pos
      · rw [e]; simp [State.elapsed, State.slotClks]

/-- A clock edge in VALIDATE: one more cycle has passed, or it completes. -/
theorem validate_clockEdge {s : State} (hr : s.rstN = true) (hv : s.curOp = .validate) (l : Bool) :
    (s.vCnt + 1 ≠ Config.vCycles ∧ (s.clockEdge l).busy = s.busy ∧ (s.clockEdge l).done = s.done ∧
        (s.clockEdge l).curOp = s.curOp ∧ (s.clockEdge l).vCnt = s.vCnt + 1) ∨
    (s.vCnt + 1 = Config.vCycles ∧ (s.clockEdge l).busy = false ∧ (s.clockEdge l).done = true ∧
        (s.clockEdge l).curOp = .idle) := by
  rw [State.clockEdge_run hr]
  have hk : (s.shiftSync (s.dqIn l)).kind = none := State.kind_none_iff.2 (.inr hv)
  cases State.cycle_cases (s.syncedLine l) (s.shiftSync (s.dqIn l)) with
  | idle ho => rw [show s.curOp = .idle from ho] at hv; cases hv
  | count _ hn ht => left; rw [ht]; exact ⟨hn, rfl, rfl, rfl, rfl⟩
  | validated _ hn ht =>
    right; rw [ht]
    obtain ⟨c1, c2, c3, _⟩ := State.complete_idle (s := s.shiftSync (s.dqIn l)) (by simp [hv])
    exact ⟨hn, c2, c3, c1⟩
  | wait k hk' => rw [hk] at hk'; cases hk'
  | us k hk' => rw [hk] at hk'; cases hk'
  | sample k hk' => rw [hk] at hk'; cases hk'
  | slotEnd k hk' => rw [hk] at hk'; cases hk'

/-- Clock edges in VALIDATE before its last: only its counter and the synchronizer move (R170, log entry 11). -/
theorem validate_clockEdges_mid {s : State} (hr : s.rstN = true) (hv : s.curOp = .validate) (ls : List Bool)
    (hl : s.vCnt + ls.length < Config.vCycles) :
    s.clockEdges ls = { s with vCnt := s.vCnt + ls.length, sync := (s.clockEdges ls).sync } := by
  induction ls using List.reverseRecOn with
  | nil => rfl
  | append_singleton ls l ih =>
    rw [List.length_append, List.length_singleton] at *
    have e := ih (by omega)
    rw [State.clockEdges_append, State.clockEdge_run (by rw [State.clockEdges_rstN, hr])]
    generalize s.clockEdges ls = u at e ⊢
    have hu : u.curOp = .validate := by rw [e]; exact hv
    have hn : u.vCnt = s.vCnt + ls.length := by rw [e]
    have hc : State.cycle (u.syncedLine l) (u.shiftSync (u.dqIn l)) =
        State.setVCnt (u.vCnt + 1) (u.shiftSync (u.dqIn l)) := by
      unfold State.cycle
      rw [show (u.shiftSync (u.dqIn l)).curOp = .validate from hu]
      exact if_neg (by show u.vCnt + 1 ≠ _; omega)
    rw [hc, hn]
    generalize u.dqIn l = b
    conv_lhs => rw [e]
    rfl

/-- The clock edges left of VALIDATE do what its one untimed step does (R170, R114). -/
theorem validate_clockEdges {s : State} (hr : s.rstN = true) (hv : s.curOp = .validate) (ls : List Bool) (l d : Bool)
    (hl : s.vCnt + ls.length + 1 = Config.vCycles) :
    s.clockEdges (ls ++ [l]) = { s.slotStep d with sync := (s.clockEdges (ls ++ [l])).sync } := by
  have e := validate_clockEdges_mid hr hv ls (by omega)
  have hs : s.slotStep d = completeValidate s := by
    unfold State.slotStep
    rw [State.kind_none_iff.2 (.inr hv)]
    show s.complete = _
    unfold State.complete; rw [hv]
  rw [State.clockEdges_append, State.clockEdge_run (by rw [State.clockEdges_rstN, hr]), hs]
  generalize s.clockEdges ls = u at e ⊢
  have hu : u.curOp = .validate := by rw [e]; exact hv
  have hc : State.cycle (u.syncedLine l) (u.shiftSync (u.dqIn l)) = completeValidate (u.shiftSync (u.dqIn l)) := by
    unfold State.cycle State.complete
    rw [show (u.shiftSync (u.dqIn l)).curOp = .validate from hu]
    exact if_pos (by show u.vCnt + 1 = _; rw [e]; exact hl)
  rw [hc]
  generalize u.dqIn l = b
  conv_lhs => rw [e]
  rfl

end Sys2Proof.Machine
end

