-- ==== Sys2Proof/Laws/Crc.lean ====
section
/-! SUPPORT. CRC-8 (42_scratchpad_validator.md R160): a byte step depends on the exclusive-or of the register and the
byte alone, and each bit step of it is one to one. -/

namespace Sys2Proof.Machine

/-- One bit step of R160 on the exclusive-or of register and data. -/
def crcFold (d : Byte) : Byte := if d.getLsbD 0 then d >>> 1 ^^^ 0x8C#8 else d >>> 1

/-- A bit step of R160 and `crcFold` agree on the exclusive-or. -/
theorem crcBit_xor (p : Byte × Byte) : (crcBit p).1 ^^^ (crcBit p).2 = crcFold (p.1 ^^^ p.2) := by
  obtain ⟨c, x⟩ := p
  simp only [crcBit, crcFold, BitVec.getLsbD_xor, BitVec.ushiftRight_xor_distrib]
  cases c.getLsbD 0 ^^ x.getLsbD 0 <;> simp 
  rw [BitVec.xor_assoc, BitVec.xor_assoc, BitVec.xor_comm (x>>>1)]

theorem crcBit_snd (p : Byte × Byte) : (crcBit p).2 = p.2 >>> 1 := rfl

/-- A byte step is eight steps of `crcFold` on the exclusive-or. -/
theorem crcByte_eq (c x : Byte) : crcByte c x = crcFold (crcFold (crcFold (crcFold (crcFold (crcFold (crcFold (crcFold (c ^^^ x)))))))) := by
  have h : ∀ p : Byte × Byte, p.2 = 0#8 → p.1 = p.1 ^^^ p.2 := by intro p h; simp [h]
  unfold crcByte
  rw [h]
  · simp only [crcBit_xor]
  · simp only [crcBit_snd]
    rw [← BitVec.shiftRight_add, ← BitVec.shiftRight_add, ← BitVec.shiftRight_add, ← BitVec.shiftRight_add, ← BitVec.shiftRight_add, ← BitVec.shiftRight_add, ← BitVec.shiftRight_add]
    apply BitVec.eq_of_getLsbD_eq; intro i hi
    simp

theorem crcFold_zero_iff (d : Byte) : crcFold d = 0#8 ↔ d = 0#8 := by
  revert d; decide

/-- The CRC of one more byte. -/
theorem crc8_append (bs : List Byte) (x : Byte) : crc8 (bs ++ [x]) = crcByte (crc8 bs) x := by simp [crc8]

end Sys2Proof.Machine
end

