-- ==== Sys2Proof/Laws/Encoding.lean ====
section
/-! SUPPORT. The fields of the CMD word (30_encoding.md R91): what the encoder puts there and what the decoder reads. -/

namespace Sys2Proof

/-- The encoded word as a number: DATA in bits 15:8, the opcode in bits 3:0. -/
theorem encode_toNat (i : Instr) : (encode i).toNat = i.data.toNat * 256 + i.opcode.toNat := by
  have h := i.opcode.isLt
  have e : i.data.toNat * 256 = i.data.toNat <<< 8 := by rw [Nat.shiftLeft_eq]
  rw [e, Nat.shiftLeft_add_eq_or_of_lt (by omega)]
  simp only [encode, BitVec.toNat_append]
  simp [← Nat.shiftLeft_add]

@[simp] theorem opField_encode (i : Instr) : opField (encode i) = i.opcode := by
  have := i.opcode.isLt
  apply BitVec.eq_of_toNat_eq
  simp [opField, encode_toNat]; omega

@[simp] theorem dataField_encode (i : Instr) : dataField (encode i) = i.data := by
  have := i.opcode.isLt
  have := i.data.isLt
  apply BitVec.eq_of_toNat_eq
  simp [dataField, encode_toNat, Nat.shiftRight_eq_div_pow]; omega

/-- The operand bit of WRITE_BIT in its DATA byte. -/
@[simp] theorem bit_append (ign : BitVec 7) (v : Bool) : (ign ++ BitVec.ofBool v : Byte).getLsbD 0 = v := by
  rw [BitVec.getLsbD_append]; simp

/-- The ignored bits of WRITE_BIT in its DATA byte. -/
@[simp] theorem ign_append (ign : BitVec 7) (v : Bool) : (ign ++ BitVec.ofBool v : Byte).extractLsb' 1 7 = ign := by
  apply BitVec.eq_of_getLsbD_eq
  intro k hk
  rw [BitVec.getLsbD_extractLsb', BitVec.getLsbD_append, if_neg (by omega), Nat.add_sub_cancel_left]
  simp [hk]

/-- A word with its reserved bits cleared is its two fields put together. -/
theorem word_fields (v : Word) : (0#16 ++ dataField v ++ 0#4 ++ opField v : BitVec 32) = v &&& 0x0000FF0F#32 := by
  apply BitVec.eq_of_getLsbD_eq
  intro k hk
  simp only [BitVec.getLsbD_append, dataField, opField, BitVec.getLsbD_extractLsb', BitVec.getLsbD_and]
  have : k = k := rfl
  interval_cases k <;> simp

/-- A DATA byte is its bit 0 and the seven bits above it. -/
theorem data_split (d : Byte) : (d.extractLsb' 1 7 ++ BitVec.ofBool (d.getLsbD 0) : Byte) = d := by
  apply BitVec.eq_of_getLsbD_eq
  intro k hk
  rw [BitVec.getLsbD_append]
  cases k with
  | zero => simp
  | succ k => have : k < 7 := Nat.lt_of_succ_lt_succ hk
              simp [Nat.add_comm, this]

/-- Everything the decoder can answer: the opcode is illegal and named, or it and DATA are the command's. -/
theorem decode_cases (v : Word) :
    (decode v = .error (.illegalOpcode (opField v)) ∧ ((opField v).toNat = 0 ∨ 8 ≤ (opField v).toNat)) ∨
    (∃ i, decode v = .ok i ∧ i.opcode = opField v ∧ i.data = dataField v ∧ 1 ≤ (opField v).toNat ∧ (opField v).toNat ≤ 7) := by
  have hb := (opField v).isLt
  unfold decode
  split <;> rename_i h
  case h_8 => left; refine ⟨rfl, ?_⟩; simp only [imp_false] at *; omega
  all_goals 
    right; refine ⟨_, rfl, ?_, ?_, ?_, ?_⟩
    · apply BitVec.eq_of_toNat_eq; rw [h]; rfl
    · first | rfl | exact data_split _
    · omega
    · omega

@[simp] theorem opField_word (d : Byte) (o : BitVec 4) : opField (0#16 ++ d ++ 0#4 ++ o : BitVec 32) = o := by
  apply BitVec.eq_of_getLsbD_eq
  intro k hk
  rw [opField, BitVec.getLsbD_extractLsb', BitVec.getLsbD_append, if_pos (by omega)]
  simp [hk]

@[simp] theorem dataField_word (d : Byte) (o : BitVec 4) : dataField (0#16 ++ d ++ 0#4 ++ o : BitVec 32) = d := by
  apply BitVec.eq_of_getLsbD_eq
  intro k hk
  rw [dataField, BitVec.getLsbD_extractLsb', BitVec.getLsbD_append, if_neg (by omega), BitVec.getLsbD_append, if_neg (by omega), BitVec.getLsbD_append, if_pos (by omega)]
  simp [hk, show 8 + k - 4 - 4 = k by omega]

end Sys2Proof
end

