-- ==== Sys2Proof/Laws/PerInstr.lean ====
section
/-! SUPPORT. What holds of each command as syntax, one lemma per constructor: its word lies in the format of
30_encoding.md R91, with the opcode R92 gives it, its DATA byte above it, and the reserved bits clear. -/

namespace Sys2Proof.Laws.EncodeClear

/-- The command is well formed, and its word is DATA in bits 15:8 over an opcode of 1 to 7, so it has no reserved bit. -/
def Statement (i : Instr) : Prop :=
  i.wellFormed = true ∧ 1 ≤ i.opcode.toNat ∧ i.opcode.toNat ≤ 7 ∧
    (encode i).toNat = i.data.toNat * 256 + i.opcode.toNat ∧ (encode i).toNat < 2 ^ 16

/-- The word's bound from its fields. -/
theorem of_opcode (i : Instr) (n : Nat) (hw : i.wellFormed = true) (hn : i.opcode.toNat = n) (h1 : 1 ≤ n)
    (h7 : n ≤ 7) : Statement i := by
  have := i.data.isLt
  refine ⟨hw, by omega, by omega, encode_toNat i, ?_⟩
  rw [encode_toNat]
  omega

theorem reset (ign : Byte) : Statement (.reset ign) := of_opcode _ 1 rfl rfl (by decide) (by decide)
theorem writeBit (v : Bool) (ign : BitVec 7) : Statement (.writeBit v ign) := of_opcode _ 2 rfl rfl (by decide) (by decide)
theorem readBit (ign : Byte) : Statement (.readBit ign) := of_opcode _ 3 rfl rfl (by decide) (by decide)
theorem writeByte (b : Byte) : Statement (.writeByte b) := of_opcode _ 4 rfl rfl (by decide) (by decide)
theorem readByte (ign : Byte) : Statement (.readByte ign) := of_opcode _ 5 rfl rfl (by decide) (by decide)
theorem readSp (ign : Byte) : Statement (.readSp ign) := of_opcode _ 6 rfl rfl (by decide) (by decide)
theorem validate (ign : Byte) : Statement (.validate ign) := of_opcode _ 7 rfl rfl (by decide) (by decide)

end Sys2Proof.Laws.EncodeClear
end

