-- ==== Sys2Proof/Laws/Progress.lean ====
section
/-! SUPPORT. What a controller step, of either model, does to the running command and to the registers of R73. -/

namespace Sys2Proof.Machine

theorem capture_sp {s : State} {d : Bool} (h : (s.capture d).sp ≠ s.sp) : s.curOp = .readSp := by
  unfold State.capture at h
  cases hc : s.curOp <;> rw [hc] at h <;> first | rfl | exact absurd rfl h

theorem complete_presence {s : State} (h : s.complete.presence ≠ s.presence) : s.curOp = .reset := by
  unfold State.complete at h
  cases hc : s.curOp <;> rw [hc] at h <;> first | rfl | exact absurd rfl h

theorem complete_rxdata {s : State} (h : s.complete.rxdata ≠ s.rxdata) : s.curOp = .readBit ∨ s.curOp = .readByte ∨
    s.curOp = .readSp := by
  unfold State.complete at h
  cases hc : s.curOp <;> rw [hc] at h <;> first | simp; done | exact absurd rfl h

theorem complete_crcCalc {s : State} (h : s.complete.crcCalc ≠ s.crcCalc) : s.curOp = .validate := by
  unfold State.complete at h
  cases hc : s.curOp <;> rw [hc] at h <;> first | rfl | exact absurd rfl h

/-- CRC_OK, VALID and RESULT hold the same in both states (R29). -/
def State.SameVerdict (s t : State) : Prop := t.crcOk = s.crcOk ∧ t.valid = s.valid ∧ t.result = s.result

theorem complete_verdict {s : State} (h : s.curOp ≠ .validate) : s.SameVerdict s.complete := by
  unfold State.complete
  cases hc : s.curOp <;> first | exact absurd hc h | exact ⟨rfl, rfl, rfl⟩

/-- From `s`, in which a command runs, to `t`, in which it has completed, the command's results are published (R116,
R120, R130, R145, R150, R170), and the registers that are no result of it hold the same (R28, R29, R32, R34). -/
def State.Publishes (s t : State) : Prop :=
  match s.curOp with
  | .idle => False
  | .reset => State.SameResults { s with presence := t.presenceL } t
  | .writeBit | .writeByte => State.SameResults s t
  | .readBit => State.SameResults { s with rxdata := if t.sr.getLsbD 0 then 0x01#8 else 0x00#8 } t
  | .readByte => State.SameResults { s with rxdata := t.sr } t
  | .readSp => State.SameResults { s with rxdata := t.sp[8] } t
  | .validate =>
    State.SameResults { s with
      crcCalc := s.crcNow, crcOk := decide (s.crcNow = s.sp[8]), result := s.verdict,
      valid := decide (s.verdict = .ok) } t

/-- Completion publishes the command's results (R116). -/
theorem complete_publishes {s : State} (h : s.curOp ≠ .idle) : s.Publishes s.complete := by
  unfold State.Publishes State.complete
  cases hc : s.curOp with
  | idle => exact absurd hc h
  | readBit =>
    refine ⟨?_, rfl, rfl, rfl, rfl, rfl⟩
    show (BitVec.ofBool (s.sr.getLsbD 0)).setWidth 8 = if s.sr.getLsbD 0 then 0x01#8 else 0x00#8
    cases s.sr.getLsbD 0 <;> rfl
  | _ => exact ⟨rfl, rfl, rfl, rfl, rfl, rfl⟩

/-- What `Publishes` reads of the first state. -/
structure PublishFrame (s u : State) : Prop where
  op : u.curOp = s.curOp
  results : State.SameResults s u
  validate : s.curOp = .validate → u.crcNow = s.crcNow ∧ u.sp[8] = s.sp[8] ∧ u.verdict = s.verdict

theorem PublishFrame.refl (s : State) : PublishFrame s s :=
  ⟨rfl, ⟨rfl, rfl, rfl, rfl, rfl, rfl⟩, fun _ => ⟨rfl, rfl, rfl⟩⟩

theorem State.Publishes.of_frame {s u t : State} (h : u.Publishes t) (f : PublishFrame s u) : s.Publishes t := by
  obtain ⟨e, ⟨r1, r2, r3, r4, r5, r6⟩, hv⟩ := f
  unfold State.Publishes at *
  rw [e] at h
  cases hc : s.curOp <;> rw [hc] at h
  case idle => exact h
  case validate =>
    obtain ⟨v1, v2, v3⟩ := hv hc
    obtain ⟨h1, h2, h3, h4, h5, h6⟩ := h
    exact ⟨h1.trans r1, h2.trans r2, h3.trans v1, h4.trans (by rw [v1, v2]), h5.trans (by rw [v3]), h6.trans v3⟩
  all_goals
    obtain ⟨h1, h2, h3, h4, h5, h6⟩ := h
    exact ⟨h1.trans (by first | rfl | exact r1), h2.trans (by first | rfl | exact r2), h3.trans r3, h4.trans r4,
      h5.trans r5, h6.trans r6⟩

/-- What a controller step does: nothing while idle; completion; or one more step of the running command. -/
inductive Progress (s t : State) : Prop where
  | idle (ho : s.curOp = .idle) (e : t = { s with sync := t.sync })
  | finished (ho : s.curOp ≠ .idle) (hb : t.busy = false) (hd : t.done = true) (hc : t.curOp = .idle)
      (h1 : t.presence ≠ s.presence → s.curOp = .reset) (h2 : t.rxdata ≠ s.rxdata → s.curOp = .readBit ∨
          s.curOp = .readByte ∨ s.curOp = .readSp)
      (h3 : t.crcCalc ≠ s.crcCalc → s.curOp = .validate) (h4 : t.sp ≠ s.sp → s.curOp = .readSp)
      (h5 : s.curOp ≠ .validate → s.SameVerdict t) (h6 : s.Publishes t)
  | running (ho : s.curOp ≠ .idle) (hb : t.busy = s.busy) (hd : t.done = s.done) (hc : t.curOp = s.curOp)
      (hr : State.SameResults s t) (h4 : t.sp ≠ s.sp → s.curOp = .readSp)

theorem complete_progress {s u : State} (ho : s.curOp ≠ .idle) (f : PublishFrame s u)
    (h4 : u.sp ≠ s.sp → s.curOp = .readSp) : Progress s u.complete := by
  have ⟨e3, ⟨h2, h1, h3, h5⟩, _⟩ := f
  obtain ⟨c1, c2, c3, _⟩ := State.complete_idle (s := u) (by rwa [e3])
  exact .finished ho c2 c3 c1 (fun h => e3 ▸ complete_presence (s := u) (by rwa [h1]))
      (fun h => e3 ▸ complete_rxdata (s := u) (by rwa [h2]))
      (fun h => e3 ▸ complete_crcCalc (s := u) (by rwa [h3])) (by simpa using h4)
      (fun h => let ⟨v1, v2, v3⟩ := complete_verdict (s := u) (by rwa [e3])
        ⟨v1.trans h5.1, v2.trans h5.2.1, v3.trans h5.2.2⟩)
      ((complete_publishes (by rwa [e3])).of_frame f)

theorem endSlot_progress {s u : State} (ho : s.curOp ≠ .idle) (hv : s.curOp ≠ .validate) (e1 : u.busy = s.busy) (e2 : u.done = s.done)
    (e3 : u.curOp = s.curOp) (hr : State.SameResults s u) (h4 : u.sp ≠ s.sp → s.curOp = .readSp) :
    Progress s u.endSlot := by
  unfold State.endSlot
  obtain ⟨r1, r2, r3, r4⟩ := hr
  split
  · exact complete_progress (u := u.nextSlot) ho ⟨e3, ⟨r1, r2, r3, r4⟩, fun h => absurd h hv⟩ h4
  · exact .running ho e1 e2 e3 ⟨r1, r2, r3, r4⟩ h4

theorem slotStep_progress (s : State) (d : Bool) : Progress s (s.slotStep d) := by
  by_cases ho : s.curOp = .idle
  · rw [State.slotStep_idle ho]; exact .idle ho rfl
  unfold State.slotStep
  split
  next hk =>
    have hv : s.curOp ≠ .validate := fun e => by simp [State.kind_none_iff.2 (.inr e)] at hk
    apply endSlot_progress ho hv <;> simp [State.SameResults]
    unfold State.takeSample; split
    · exact fun h => capture_sp h
    · simp
  · exact complete_progress ho (.refl s) (by simp)

theorem cycle_progress (s : State) (d : Bool) : Progress s (s.cycle d) := by
  by_cases ho : s.curOp = .idle
  · rw [State.cycle_idle ho]; exact .idle ho rfl
  cases State.cycle_cases d s with
  | idle h _ => exact absurd h ho
  | count _ _ ht => rw [ht]; exact .running ho rfl rfl rfl ⟨rfl, rfl, rfl, rfl, rfl, rfl⟩ (by simp)
  | validated _ _ ht => rw [ht]; exact complete_progress ho (.refl s) (by simp)
  | wait _ _ _ ht => rw [ht]; exact .running ho rfl rfl rfl ⟨rfl, rfl, rfl, rfl, rfl, rfl⟩ (by simp)
  | us _ _ _ _ _ ht => rw [ht]; exact .running ho rfl rfl rfl ⟨rfl, rfl, rfl, rfl, rfl, rfl⟩ (fun h => absurd rfl h)
  | sample _ _ _ _ _ ht =>
    rw [ht]
    exact .running ho (by simp) (by simp) (by simp) (by simp [State.SameResults])
        (fun h => capture_sp (s := (s.setPre 0).nextUs.drive) h)
  | slotEnd _ hk _ _ ht =>
    rw [ht]
    have hv : s.curOp ≠ .validate := fun e => by rw [State.kind_none_iff.2 (.inr e)] at hk; cases hk
    exact endSlot_progress ho hv rfl rfl rfl ⟨rfl, rfl, rfl, rfl, rfl, rfl⟩ (fun h => absurd rfl h)

/-- A step from a state that agrees on the registers of R73 and on what VALIDATE reads (R173). -/
theorem Progress.trans {s u t : State} (h : Progress u t) (e : s = { s with
      busy := u.busy, done := u.done, curOp := u.curOp, presence := u.presence, rxdata := u.rxdata,
      crcCalc := u.crcCalc, crcOk := u.crcOk, valid := u.valid, result := u.result, sp := u.sp,
      rangeLo := u.rangeLo, rangeHi := u.rangeHi, rangeEnL := u.rangeEnL }
    ) (ho : u.curOp ≠ .idle) : Progress s t := by
  rw [e]
  cases h with
  | idle h _ => exact absurd h ho
  | finished ho hb hd hc h1 h2 h3 h4 h5 h6 => exact .finished ho hb hd hc h1 h2 h3 h4 h5 h6
  | running ho hb hd hc hr h4 => exact .running ho hb hd hc hr h4

theorem clockEdge_progress (s : State) (l : Bool) : Progress s (s.clockEdge l) := by
  unfold State.clockEdge
  by_cases ho : s.curOp = .idle
  · refine .idle ho ?_
    split
    · rw [State.cycle_idle (s := s.shiftSync (s.dqIn l)) ho]; rfl
    · rfl
  split
  · exact (cycle_progress (s.shiftSync (s.dqIn l)) _).trans rfl ho
  · exact .running ho rfl rfl rfl ⟨rfl, rfl, rfl, rfl, rfl, rfl⟩ (by simp)

/-- Which command writes the verdict (R29). -/
theorem Progress.verdict {s t : State} (h : Progress s t) :
    s.SameVerdict t ∨ (s.curOp = .validate ∧ t.curOp = .idle) := by
  cases h with
  | idle ho e => rw [e]; exact .inl ⟨rfl, rfl, rfl⟩
  | finished _ _ _ hc _ _ _ _ h5 =>
    by_cases hv : s.curOp = .validate
    · exact .inr ⟨hv, hc⟩
    · exact .inl (h5 hv)
  | running _ _ _ _ hr => exact .inl hr.2.2.2

/-- Which commands write which registers (R28, R32, R34, R35). -/
theorem Progress.writers {s t : State} (h : Progress s t) : 
    (t.presence ≠ s.presence → s.curOp = .reset ∧ t.curOp = .idle) ∧
    (t.rxdata ≠ s.rxdata → (s.curOp = .readBit ∨ s.curOp = .readByte ∨ s.curOp = .readSp) ∧ t.curOp = .idle) ∧
    (t.crcCalc ≠ s.crcCalc → s.curOp = .validate ∧ t.curOp = .idle) ∧
    (t.sp ≠ s.sp → s.curOp = .readSp) ∧ (t.done = false → s.done = false) := by
  cases h with
  | idle ho e =>
    rw [e]
    exact ⟨fun h => absurd rfl h, fun h => absurd rfl h, fun h => absurd rfl h, fun h => absurd rfl h, id⟩
  | finished _ _ hd hc h1 h2 h3 h4 => exact ⟨fun h => ⟨h1 h, hc⟩, fun h => ⟨h2 h, hc⟩, fun h => ⟨h3 h, hc⟩, h4,
      fun h => absurd (hd.symm.trans h) (by simp)⟩
  | running _ _ hd hc hr h4 => exact ⟨fun h => absurd hr.2.1 h, fun h => absurd hr.1 h, fun h => absurd hr.2.2.1 h,
      h4, fun h => hd ▸ h⟩

/-- A controller step of a running command: on to the next slot, or the end. -/
theorem Inv.slotStep_progress {s : State} (h : Inv s) (hb : s.busy = true) (d : Bool) :
    ((s.slotStep d).busy = false ∧ (s.slotStep d).done = true ∧ (s.slotStep d).curOp = .idle ∧
        (s.curOp = .validate ∨ s.slotIdx + 1 = s.curOp.slots)) ∨
    ((s.slotStep d).busy = true ∧ (s.slotStep d).curOp = s.curOp ∧ (s.slotStep d).slotIdx = s.slotIdx + 1 ∧
        s.curOp ≠ .validate ∧ s.slotIdx + 1 < s.curOp.slots) := by
  have ho := h.busy_iff.1 hb
  unfold State.slotStep
  split
  next k hk =>
    have hv : s.curOp ≠ .validate := fun e => by simp [State.kind_none_iff.2 (.inr e)] at hk
    unfold State.endSlot
    split
    next hn =>
      left
      obtain ⟨c1, c2, c3, _⟩ := State.complete_idle (s := (State.setPre 0 (State.takeSample d s)).nextSlot)
          (by simpa using ho)
      exact ⟨c2, c3, c1, .inr (by simpa using hn)⟩
    next hn =>
      right
      simp at hn
      have := h.slot_lt (by simp [hk])
      exact ⟨by simpa using hb, by simp, by simp, hv, by omega⟩
  next hk =>
    left
    obtain ⟨c1, c2, c3, _⟩ := State.complete_idle ho
    exact ⟨c2, c3, c1, .inl (by rcases State.kind_none_iff.1 hk with h | h; exact absurd h ho; exact h)⟩

/-- With no input pending the controller moves (R236). -/
theorem step_alone {s : State} (h : s.inputs = []) (ho : s.curOp ≠ .idle) :
    step s = .next (s.countDraw.slotStep (Config.freeDraw s.draws)) := by
  have : step s = .next s.controllerAlone := by unfold step; rw [h]
  rw [this]; unfold State.controllerAlone; rw [if_neg ho]

/-- The fields a host access may change while a command runs, blanked out (R117). -/
def State.hideHost (s : State) : State :=
  { s with
    ieDone := false, ieErr := false, rangeEn := false, done := false, errCmd := false, errBusy := false, viol := false,
    hRdata := 0#32 }

theorem State.eq_of_hideHost {s t : State} (h : t.hideHost = s.hideHost) :
    t = { s with
      ieDone := t.ieDone, ieErr := t.ieErr, rangeEn := t.rangeEn, done := t.done, errCmd := t.errCmd,
      errBusy := t.errBusy, viol := t.viol, hRdata := t.hRdata } := by
  calc t = { t.hideHost with
        ieDone := t.ieDone, ieErr := t.ieErr, rangeEn := t.rangeEn, done := t.done, errCmd := t.errCmd,
        errBusy := t.errBusy, viol := t.viol, hRdata := t.hRdata } := rfl
    _ = { s.hideHost with
        ieDone := t.ieDone, ieErr := t.ieErr, rangeEn := t.rangeEn, done := t.done, errCmd := t.errCmd,
        errBusy := t.errBusy, viol := t.viol, hRdata := t.hRdata } := by rw [h]
    _ = _ := rfl

theorem State.hideHost_capture (s : State) (d : Bool) : s.hideHost.capture d = (s.capture d).hideHost := by
  unfold State.capture
  rw [show s.hideHost.curOp = s.curOp from rfl]
  cases s.curOp <;> first
    | rfl
    | (dsimp only [captureReadSp]
       rw [show s.hideHost.slotIdx = s.slotIdx from rfl]
       split <;> rfl)

theorem State.hideHost_complete (s : State) : s.hideHost.complete.hideHost = s.complete.hideHost := by
  unfold State.complete
  rw [show s.hideHost.curOp = s.curOp from rfl]
  cases s.curOp <;> rfl

theorem State.hideHost_endSlot (s : State) : s.hideHost.endSlot.hideHost = s.endSlot.hideHost := by
  unfold State.endSlot
  rw [show s.hideHost.slotIdx = s.slotIdx from rfl, show s.hideHost.curOp = s.curOp from rfl]
  split
  · exact State.hideHost_complete s.nextSlot
  · rfl

theorem State.hideHost_tick (s : State) (d : Bool) : (s.hideHost.tick d).hideHost = (s.tick d).hideHost := by
  unfold State.tick
  rw [show s.hideHost.kind = s.kind from rfl]
  split
  · rfl
  · rw [show s.hideHost.tUs = s.tUs from rfl, show s.hideHost.nextUs.sampleNow = s.nextUs.sampleNow from rfl]
    split
    · exact State.hideHost_endSlot s
    · split
      · exact (congrArg State.hideHost (State.hideHost_capture s.nextUs.drive d) :)
      · rfl

/-- The controller reads none of the fields a host access may change while a command runs (R117). -/
theorem State.hideHost_cycle (s : State) (d : Bool) : (s.hideHost.cycle d).hideHost = (s.cycle d).hideHost := by
  unfold State.cycle
  rw [show s.hideHost.curOp = s.curOp from rfl, show s.hideHost.vCnt = s.vCnt from rfl,
    show s.hideHost.pre = s.pre from rfl]
  cases s.curOp <;> dsimp only
  case idle => rfl
  case validate =>
    split
    · exact State.hideHost_complete s
    · rfl
  all_goals
    split
    · exact State.hideHost_tick (s.setPre 0) d
    · rfl

theorem run_next (M : Host.Core) {s t : M.State} (h : M.step s = .next t) (k : Nat) :
    M.run (k + 1) s = M.run k t := by
  unfold Host.Core.run; rw [h]; cases k <;> rfl

end Sys2Proof.Machine
end

