-- ==== Sys2Proof/Tests/Slice0.lean ====
section
/-! SUPPORT. Tests on fixed values, taken from the spec's tables and examples, and for each statement with hypotheses a
witness that meets them. -/

namespace Sys2Proof.Machine

/-- What a field of the next state is. -/
def after {α : Type} (o : Outcome) (f : State → α) : Option α :=
  match o with
  | .next t => some (f t)
  | .fault _ => none
  | .refused _ => none

/-- A state in slot `k` of a command, in its low phase. -/
def running (op : Op) (data : Byte) (k : Nat) (sr : Byte) : State :=
  { State.reset with busy := true, curOp := op, curData := data, slotIdx := k, sr := sr, dqOe := true }

/-- A state whose SP buffer holds nine bytes. -/
def withSp (b0 b1 b2 b3 b4 b5 b6 b7 b8 : Byte) : State :=
  { State.reset with sp := #v[b0, b1, b2, b3, b4, b5, b6, b7, b8] }

/-! ## WellFormed: each check refuses an ill-formed term (R100, R101, R102). -/

theorem test_wf_wbit : (AsmLine.wbit 1).wellFormed = true ∧ (AsmLine.wbit 2).assemble = none := by decide
theorem test_wf_wbyte : (AsmLine.wbyte 255).wellFormed = true ∧ (AsmLine.wbyte 256).assemble = none := by decide
theorem test_wf_wr : (AsmLine.wr .range 0xFFFFFFFF).wellFormed = true ∧ (AsmLine.wr .range 0x100000000).assemble = none ∧
    (AsmLine.wr .reserved 0).assemble = none := by decide
theorem test_wf_rd : (AsmLine.rd .temp).wellFormed = true ∧ (AsmLine.rd .reserved).assemble = none := by decide
theorem test_wf_range : (AsmLine.range (-32768) 32767).wellFormed = true ∧ (AsmLine.range (-32769) 0).assemble = none ∧
    (AsmLine.range 32768 0).assemble = none ∧ (AsmLine.range 0 (-32769)).assemble = none ∧
    (AsmLine.range 0 32768).assemble = none := by decide
theorem test_wf_loadsp : (AsmLine.loadsp [0, 1, 2, 3, 4, 5, 6, 7, 255]).wellFormed = true ∧
    (AsmLine.loadsp [0, 1, 2, 3, 4, 5, 6, 7]).assemble = none ∧
    (AsmLine.loadsp [0, 1, 2, 3, 4, 5, 6, 7, 256]).assemble = none := by decide

/-! ## Decoding: words written out from R91 (reserved, DATA, 0000, OP) and the tables of 95 §2.1. -/

theorem test_decode_reset : decode 0b0000000000000000_00000000_0000_0001#32 = .ok (.reset 0x00) := by decide
theorem test_decode_wbit : decode 0b0000000000000000_00000001_0000_0010#32 = .ok (.writeBit true 0) ∧
    decode 0b0000000000000000_11111110_0000_0010#32 = .ok (.writeBit false 0x7F) := by decide
theorem test_decode_rbit : decode 0b0000000000000000_00000001_0000_0011#32 = .ok (.readBit 0x01) := by decide
theorem test_decode_wbyte : decode 0b0000000000000000_11001100_0000_0100#32 = .ok (.writeByte 0xCC) := by decide
theorem test_decode_rbyte : decode 0b0000000000000000_11111111_0000_0101#32 = .ok (.readByte 0xFF) := by decide
theorem test_decode_readsp : decode 0b0000000000000000_00000000_0000_0110#32 = .ok (.readSp 0x00) := by decide
theorem test_decode_validate : decode 0b0000000000000000_00000000_0000_0111#32 = .ok (.validate 0x00) := by decide
theorem test_decode_illegal : decode 0x00000000#32 = .error (.illegalOpcode 0x0) ∧
    decode 0x00000008#32 = .error (.illegalOpcode 0x8) ∧ decode 0xFFFFFFFF#32 = .error (.illegalOpcode 0xF) := by decide
theorem test_decode_reserved_ignored : decode 0x000000F1#32 = .ok (.reset 0x00) ∧
    decode 0x00010005#32 = .ok (.readByte 0x00) := by decide
theorem test_decode_table_word : decodeTableWord 32 0x0000CC04 = some (.writeByte 0xCC) ∧ decodeTableWord 4 0x14 = some (.writeByte 0) ∧
    decodeTableWord 32 0 = none := by decide
theorem test_expand_range : (AsmLine.range (-880) 2000).assemble = some [.write .range 0x07D0FC90#32] := by decide
theorem test_expand_loadsp : (AsmLine.loadsp [0x90, 0x01, 0x4B, 0x46, 0x7F, 0xFF, 0x0C, 0x10, 0x33]).assemble =
    some [.write .sp0 0x464B0190#32, .write .sp1 0x100CFF7F#32, .write .sp2 0x00000033#32] := by decide

/-! ## Commands: acceptance from reset through CMD (R95), and the last step of each (95 §2.3 to §2.5). -/

theorem test_accept_reset : after (step (State.reset.withFetchWord 32 0x00000001))
    (fun t => (t.curOp, t.busy, t.dqOe)) = some (.reset, true, true) := by decide
theorem test_reset_presence : ((running .reset 0 0 0).slotStep false).readReg .status false = 0x00000012#32 ∧
    ((running .reset 0 0 0).slotStep true).readReg .status false = 0x00000002#32 := by decide
theorem test_accept_wbit : after (step (State.reset.withFetchWord 32 0x00000102)) (fun t => (t.curOp, t.kind)) =
    some (.writeBit, some .w1) := by decide
theorem test_wbit_done : ((running .writeBit 0 0 0).slotStep false).readReg .status false = 0x00000002#32 := by decide
theorem test_accept_rbit : after (step (State.reset.withFetchWord 32 0x00000003)) (fun t => (t.curOp, t.kind)) =
    some (.readBit, some .r) := by decide
theorem test_rbit_sample : ((running .readBit 0 0 0).slotStep true).readReg .rxdata false = 0x00000001#32 ∧
    ((running .readBit 0 0 0).slotStep false).readReg .rxdata false = 0x00000000#32 := by decide
theorem test_accept_wbyte : after (step (State.reset.withFetchWord 32 0x0000CC04)) (fun t => (t.curOp, t.curData)) =
    some (.writeByte, 0xCC) := by decide
/-- V-S3: 0xCC sends W0 W0 W1 W1 W0 W0 W1 W1. -/
theorem test_wbyte_slots : (List.range 8).map (Op.writeByte.slotKind 0xCC) =
    [some .w0, some .w0, some .w1, some .w1, some .w0, some .w0, some .w1, some .w1] := by decide
theorem test_accept_rbyte : after (step (State.reset.withFetchWord 32 0x0000FF05)) (fun t => (t.curOp, t.kind)) =
    some (.readByte, some .r) := by decide
/-- V-S8: the draws 0, 0, 0, 0, 1, 0, 0, 1 give 0x90; here the last of them. -/
theorem test_rbyte_last : ((running .readByte 0 7 0x10).slotStep true).readReg .rxdata false = 0x00000090#32 := by decide
theorem test_accept_readsp : after (step ({ State.reset with result := .ok, valid := true, crcOk := true }.withFetchWord 32 6))
    (fun t => (t.curOp, t.result, t.valid, t.crcOk)) = some (.readSp, .none, false, false) := by decide
theorem test_readsp_last : ((running .readSp 0 71 0x33).slotStep false).readReg .sp2 false = 0x00000033#32 ∧
    ((running .readSp 0 71 0x33).slotStep false).readReg .rxdata false = 0x00000033#32 := by decide
theorem test_accept_validate : after (step (State.reset.withFetchWord 32 0x00000007)) (fun t => (t.curOp, t.dqOe)) =
    some (.validate, false) := by decide
/-- The example of R170. -/
theorem test_validate_example : (({ withSp 0x90 0x01 0x4B 0x46 0x7F 0xFF 0x0C 0x10 0x33 with
    busy := true, curOp := .validate } : State).slotStep false).readReg .status false = 0x00000162#32 := by decide +kernel

/-- R167, R168, R171, S13: each code, at the edges of its range. -/
theorem test_verdict : verdict 0x33 0x32 0x0550 true 0x0050 0x0320 = .crcMismatch ∧
    verdict 0x33 0x33 0x0000 true 0x0050 0x0320 = .rawZero ∧ verdict 0x33 0x33 0x0550 true 0x0050 0x0320 = .rawPowerOn ∧
    verdict 0x33 0x33 0xFFFF false 0x0050 0x0320 = .rawOnes ∧ verdict 0x33 0x33 79 true 0x0050 0x0320 = .belowRange ∧
    verdict 0x33 0x33 80 true 0x0050 0x0320 = .ok ∧ verdict 0x33 0x33 800 true 0x0050 0x0320 = .ok ∧
    verdict 0x33 0x33 801 true 0x0050 0x0320 = .aboveRange ∧ verdict 0x33 0x33 801 false 0x0050 0x0320 = .ok ∧
    verdict 0x33 0x33 0xFFF8 true 0xFC90 2000 = .ok := by decide

/-! ## The host port (95 §2.2). -/

theorem test_read_ctrl : after (portAccess (Access.readOf .ctrl) false State.reset) (·.hRdata) = some 0x00000008#32 := by
  decide
theorem test_temp_negative : after (writeReg .sp0 0x12348000#32 State.reset) (fun t => t.readReg .temp false) =
    some 0xFFFF8000#32 := by decide
theorem test_sp2_reserved : after (portAccess (Access.writeOf .sp2 0x00000133#32) false State.reset)
    (fun t => (t.sp[8], t.viol)) = some (0x33, true) := by decide
theorem test_irq_masked : ({ State.reset with done := true, ieDone := true } : State).irq = true ∧
    after (writeReg .ctrl 0x00000008#32 { State.reset with done := true, ieDone := true }) (fun t => (t.irq, t.done)) =
      some (false, true) := by decide

/-! ## Witnesses: for each statement with hypotheses, a state and operands that meet them. -/

/-- The machine after reset, once a draw has been used. -/
def fresh : State := { State.reset with draws := 1 }
/-- RESET just accepted from reset: the invariant holds, in slot 0, at time 0. -/
def resetting : State := fresh.accept .reset 0
/-- VALIDATE just accepted from reset. -/
def validating : State := fresh.accept .validate 0
/-- VALIDATE one clock cycle before its completion. -/
def validated : State := validating.setVCnt Config.vCyclesPred

theorem fresh_inv : Inv fresh := State.AtReset.inv rfl
theorem resetting_inv : Inv resetting := fresh_inv.accept rfl (by decide) 0
theorem validating_inv : Inv validating := fresh_inv.accept rfl (by decide) 0
theorem validated_inv : Inv validated :=
  ⟨validating_inv.busy_iff, validating_inv.drive_eq, validating_inv.valid_iff, validating_inv.crc_ok,
    validating_inv.slot_lt, validating_inv.slot_zero, validating_inv.time_lt, validating_inv.time_zero,
    validating_inv.pre_lt, validating_inv.pre_zero, Nat.lt_succ_self _, fun h => absurd rfl h,
    validating_inv.sync_length, validating_inv.sync_low, fun h => absurd h (by decide)⟩
/-- A state that is not at its reset values. -/
theorem not_reset_of {s : State} {α : Type} (f : State → α) (h : f s.resetBlock ≠ f s) : ¬ s.AtReset :=
  fun e => h (congrArg f e)

/-- The CMD write of a word. -/
def toCmd (v : Word) : Access := Access.writeOf .cmd v

theorem witness_EncodeOfDecode : ∃ (v : Word) (i : Instr), decode v = .ok i := ⟨0x000000F1, .reset 0, by decide⟩
theorem witness_ReservedBitsTakeNoPart : ∃ v w : Word, v &&& 0x0000FF0F#32 = w &&& 0x0000FF0F#32 ∧ v ≠ w :=
  ⟨0x000000F1, 0x00000001, by decide⟩
theorem witness_StepRunsDecodedCommand : State.reset.rstN = true ∧ decode 0x0000CC04#32 = .ok (.writeByte 0xCC) ∧
    ({ State.reset with inputs := [.access (toCmd 0x0000CC04) true] } : State).inputs =
      [.access (Access.writeOf .cmd 0x0000CC04) true] ∧
    ({ State.reset with inputs := [.mem ⟨Config.owBase + 0x08, 4, some 0x0000CC04⟩ true] } : State).inputs =
      [.mem ⟨Config.owBase + 0x08, 4, some 0x0000CC04⟩ true] ∧
    ({ State.reset with inputs := [.clockAccess (toCmd 0x0000CC04) true] } : State).inputs =
      [.clockAccess (Access.writeOf .cmd 0x0000CC04) true] ∧ State.reset.curOp = .idle :=
  ⟨rfl, by decide, rfl, rfl, rfl, rfl⟩
theorem witness_PlacedWordRuns : ∃ (w : Nat) (i : Instr), decodeTableWord 32 w = some i := ⟨7, .validate 0, by decide⟩
theorem witness_StepTakesOtherInputs :
    ({ State.reset with inputs := [.slot true] } : State).inputs = [.slot true] ∧
    ({ State.reset with inputs := [.clock true] } : State).inputs = [.clock true] ∧
    ({ State.reset with inputs := [.rst false] } : State).inputs = [.rst false] ∧
    (State.reset.inputs = [] ∧ State.reset.curOp = .idle) ∧ (resetting.inputs = [] ∧ resetting.curOp ≠ .idle) :=
  ⟨rfl, rfl, rfl, ⟨rfl, rfl⟩, rfl, by decide⟩
theorem witness_ResetHandshake : State.reset.busy = false := rfl
theorem witness_WriteBitSendsOneSlot : ({ State.reset with errCmd := true } : State).busy = false := rfl
theorem witness_ReadBitReturnsSample : ({ State.reset with rxdata := 0xA5 } : State).busy = false := rfl
theorem witness_WriteByteSendsEightSlots : State.reset.busy = false ∧ ([] : List Bool).length < 8 ∧
    (List.replicate 7 true).length < 8 ∧ (List.replicate 8 true).length = 8 := by decide
theorem witness_ReadByteAssemblesSamples : State.reset.busy = false ∧ ([] : List Bool).length < 8 ∧
    (List.replicate 7 true).length < 8 ∧ (List.replicate 8 true).length = 8 ∧ 7 < 8 := by decide
theorem witness_ReadSpFillsBuffer : State.reset.busy = false ∧ (List.replicate 71 true).length < 72 ∧
    8 * 7 + 8 ≤ (List.replicate 71 true).length ∧ ¬ 8 * 8 + 8 ≤ (List.replicate 71 true).length ∧
    (List.replicate 72 true).length = 72 := by decide
theorem witness_ValidateReportsFirstFailure : State.reset.busy = false ∧
    crc8 [0, 0, 0, 0, 0, 0, 0, 0] = State.reset.sp[8] ∧ (0x0000#16 : Half) = State.reset.sp[1] ++ State.reset.sp[0] := by
  decide +kernel
theorem witness_ValidateIsDeterministicAndIdempotent : validating.curOp = .validate ∧ validated.curOp = .validate ∧
    validated.sp = validating.sp ∧ validated.rangeLo = validating.rangeLo ∧ validated.rangeHi = validating.rangeHi ∧
    validated.rangeEnL = validating.rangeEnL ∧ State.reset.busy = false := ⟨rfl, rfl, rfl, rfl, rfl, rfl, rfl⟩
theorem witness_ReadSpIsNineReadBytes : ∃ (s t t' : State) (ds : List Bool), 8 < 9 ∧ s.busy = false ∧
    exec (.readSp 0) s = .next t ∧ exec (.readByte 0) s = .next t' ∧ ds.length = 72 :=
  ⟨State.reset, _, _, List.replicate 72 true, by decide, rfl, rfl, rfl, by decide⟩
theorem witness_WriteByteIsEightWriteBits : ∃ (s t t' : State) (ds : List Bool), s.busy = false ∧ ds.length < 8 ∧
    exec (.writeByte 0xCC) s = .next t ∧ exec (.writeBit ((0xCC#8).getLsbD ds.length) 0) s = .next t' :=
  ⟨State.reset, _, _, List.replicate 7 true, rfl, by decide, rfl, rfl⟩
theorem witness_IgnoredDataHasNoEffect : ∃ (i : Instr) (s t t' : State), s.busy = false ∧ exec i s = .next t ∧
    exec (canonical i) s = .next t' ∧ canonical i ≠ i :=
  ⟨.writeBit true 0x7F, State.reset, _, _, rfl, rfl, rfl, by decide⟩
theorem witness_SoftResetRestoresEverything : resetting.rstN = true ∧ (0x0000000F#32).getLsbD 0 = true := by decide
theorem witness_HardwareResetHolds : ∃ r, r = resetting.setRstN false := ⟨_, rfl⟩
theorem witness_RegisterMap : 0x28 ≤ (0x28#6).toNat ∧ 0x28 ≤ (0x3F#6).toNat ∧ (0x24#6).toNat / 4 = (0x27#6).toNat / 4 := by
  decide
theorem witness_ReadsHaveNoSideEffect : resetting.rstN = true ∧ (Access.readOf .ctrl).write = false ∧
    (Access.mk false 0x3C 0b10 0).write = false ∧ regAt 0x3C = .reserved := by decide
theorem witness_StatusLayout : ∃ v, v = resetting.readReg .status true := ⟨_, rfl⟩
theorem witness_CtrlWriteSetsEnables : resetting.rstN = true ∧ (0x00000006#32).getLsbD 0 = false := by decide
theorem witness_RangeEnableIsLatched : ∃ t, validating.curOp = .validate ∧ validating.rstN = true ∧
    (0x00000002#32).getLsbD 0 = false ∧ portAccess (Access.writeOf .ctrl 0x00000002) true validating = .next t :=
  ⟨_, rfl, rfl, by decide, portAccess_writeOf rfl _ _ _⟩
theorem witness_StatusWriteClearsSticky : resetting.rstN = true := rfl
theorem witness_BufferWritesReadBack : State.reset.rstN = true ∧ State.reset.busy = false ∧ 4 ≤ 8 ∧ 3 < 4 ∧ 7 < 8 := by
  decide
theorem witness_ReadOnlyRegistersIgnoreWrites : ∀ o ∈ [0x0C#6, 0x10, 0x20, 0x28, 0x2C, 0x30, 0x34, 0x38, 0x3C],
    (Access.mk true o 0b10 0xFFFFFFFF).write = true ∧
      (regAt o = .rxdata ∨ regAt o = .crc ∨ regAt o = .temp ∨ regAt o = .reserved) := by decide
theorem witness_BusyWritesRaiseErrBusy : resetting.busy = true ∧ resetting.rstN = true ∧
    (∃ t, portAccess (Access.writeOf .status 0) true { resetting with errBusy := true } = .next t ∧ t.errBusy = true) ∧
    (∃ t, portAccess (Access.readOf .sp0) true resetting = .next t) :=
  ⟨rfl, rfl, ⟨_, portAccess_writeOf rfl _ _ _, rfl⟩, portAccess_next _ _ _⟩
theorem witness_IllegalOpcodeRaisesErrCmd : (State.reset.rstN = true ∧ State.reset.busy = false) ∧
    (resetting.rstN = true ∧ resetting.busy = true) ∧
    (opField 0x00000000).toNat = 0 ∧ 8 ≤ (opField 0x00000008).toNat ∧ 8 ≤ (opField 0xFFFFFFFF).toNat :=
  ⟨⟨rfl, rfl⟩, ⟨rfl, rfl⟩, by decide⟩
theorem witness_BusyCommandIsTurnedAway : resetting.busy = true := rfl
theorem witness_WindowSelection : 0x3C ≤ 0x3F ∧ 0x3C % 4 = 0 ∧
    ({ State.reset with inputs := [.mem ⟨Config.owBase + 0x3C, 4, none⟩ true] } : State).inputs =
      [.mem ⟨Config.owBase + 0x3C, 4, none⟩ true] ∧ Config.owBase + 0x3F < Config.owBase + 0x40 ∧
    ({ State.reset with inputs := [.mem ⟨Config.owBase + 0x40, 1, none⟩ true] } : State).inputs =
      [.mem ⟨Config.owBase + 0x40, 1, none⟩ true] :=
  ⟨by decide, by decide, rfl, Nat.add_lt_add_left (by decide) _, rfl⟩
theorem witness_SubwordAccessIsRefused :
    ((Access.mk true 0x08 0b00 0).size ≠ 0b10 ∧ (Access.mk false 0x3F 0b10 0).addr.toNat % 4 ≠ 0) ∧
    (0x3F ≤ 0x3F ∧ 0x3F % 4 ≠ 0 ∧ (2 : Nat) ≠ 4) ∧
    ({ State.reset with inputs := [.clockAccess ⟨true, 0x08, 0b00, 0⟩ true] } : State).viol = false ∧
    ({ State.reset with viol := true, inputs := [.access ⟨false, 0x3F, 0b10, 0⟩ true] } : State).viol = true := by decide
theorem witness_ViolSetAndNeverCleared : ∃ t, step { State.reset with inputs := [.clockAccess ⟨true, 0x08, 0b00, 0⟩ true] } =
    .next t := ⟨_, rfl⟩
theorem witness_IrqIsLevelOfStatus : State.reset.rstN = true ∧ State.reset.busy = false ∧ State.reset.errCmd = false ∧
    State.reset.errBusy = false := ⟨rfl, rfl, rfl, rfl⟩
theorem witness_StepKeepsInvariant : ∃ s t, Inv s ∧ step s = .next t ∧ t ≠ s :=
  ⟨resetting, _, resetting_inv, rfl, fun h => absurd (congrArg State.busy h) (by decide)⟩
/-- A reset by `rst_n` and by a soft reset, a completion with a result, and a slot that is not the last. -/
theorem witness_ResultsPublishedAtCompletion :
    (∃ s t, Inv s ∧ s.busy = true ∧ step s = .next t ∧ s.inputs = [.rst false] ∧ t.AtReset) ∧
    (∃ s t, Inv s ∧ s.busy = true ∧ step s = .next t ∧ s.inputs = [.access (Access.writeOf .ctrl 0x00000001) true] ∧
      t.AtReset) ∧
    (∃ s t, Inv s ∧ s.busy = true ∧ step s = .next t ∧ t.busy = false ∧ t.done = true ∧ t.presence = true) ∧
    (∃ s t, Inv s ∧ s.busy = true ∧ step s = .next t ∧ t.busy = true ∧ s.curOp = .readByte) :=
  ⟨⟨{ resetting with inputs := [.rst false] }, _, resetting_inv.congr rfl rfl, rfl, rfl, rfl, rfl⟩,
    ⟨{ resetting with inputs := [.access (Access.writeOf .ctrl 0x00000001) true] }, _, resetting_inv.congr rfl rfl, rfl,
      rfl, rfl, rfl⟩,
    ⟨{ resetting with inputs := [.slot false] }, _, resetting_inv.congr rfl rfl, rfl, rfl, rfl, rfl, rfl⟩,
    ⟨{ fresh.accept .readByte 0 with inputs := [.slot true] }, _, (fresh_inv.accept rfl (by decide) 0).congr rfl rfl,
      rfl, rfl, rfl, rfl⟩⟩
/-- The verdict on an all-zero scratchpad: its checksum matches, and its raw value is a sentinel (R172 a). -/
def judged : State := { fresh with done := true, result := .rawZero, crcOk := true }
theorem judged_inv : Inv judged :=
  ⟨fresh_inv.busy_iff, fresh_inv.drive_eq, by decide, fun _ => by decide, fresh_inv.slot_lt, fresh_inv.slot_zero,
    fresh_inv.time_lt, fresh_inv.time_zero, fresh_inv.pre_lt, fresh_inv.pre_zero, fresh_inv.vcnt_lt,
    fresh_inv.vcnt_zero, fresh_inv.sync_length, fresh_inv.sync_low, fun h => absurd h (by decide)⟩
/-- The verdict changes at the completion of VALIDATE, at the acceptance of READ_SP and by an SP write, and the enables by a
CTRL write. -/
theorem witness_RegistersHaveOneWriter_verdict :
    (∃ s t, Inv s ∧ step s = .next t ∧ ¬ t.AtReset ∧ t.result ≠ s.result ∧ s.curOp = .validate) ∧
    (∃ s t, Inv s ∧ step s = .next t ∧ ¬ t.AtReset ∧ t.crcOk ≠ s.crcOk ∧ t.curOp = .readSp) ∧
    (∃ s t, Inv s ∧ step s = .next t ∧ ¬ t.AtReset ∧ t.result ≠ s.result ∧ t.curOp = .idle ∧ s.curOp = .idle) ∧
    (∃ s t, Inv s ∧ step s = .next t ∧ ¬ t.AtReset ∧ t.ieDone ≠ s.ieDone) := by
  refine ⟨⟨{ validating with inputs := [.slot true] }, _, validating_inv.congr rfl rfl, rfl,
      not_reset_of State.done (by decide), by decide +kernel, rfl⟩,
    ⟨{ judged with inputs := [.access (toCmd 0x00000006) true] }, _, judged_inv.congr rfl rfl, rfl,
      not_reset_of State.busy (by decide), by decide +kernel, rfl⟩,
    ⟨{ judged with inputs := [.access (Access.writeOf .sp0 0x00000000) true] }, _, judged_inv.congr rfl rfl, rfl,
      not_reset_of State.done (by decide), by decide +kernel, rfl, rfl⟩,
    ⟨{ fresh with inputs := [.access (Access.writeOf .ctrl 0x00000002) true] }, _, fresh_inv.congr rfl rfl, rfl,
      not_reset_of State.ieDone (by decide), by decide⟩⟩
/-- PRESENCE, CRC and RXDATA change at a completion, SP and RANGE by a host write. -/
theorem witness_RegistersHaveOneWriter :
    (∃ s t, Inv s ∧ step s = .next t ∧ ¬ t.AtReset ∧ t.presence ≠ s.presence) ∧
    (∃ s t, Inv s ∧ step s = .next t ∧ ¬ t.AtReset ∧ t.rxdata ≠ s.rxdata) ∧
    (∃ s t, Inv s ∧ step s = .next t ∧ ¬ t.AtReset ∧ t.crcCalc ≠ s.crcCalc) ∧
    (∃ s t, Inv s ∧ step s = .next t ∧ ¬ t.AtReset ∧ t.sp ≠ s.sp) ∧
    (∃ s t, Inv s ∧ step s = .next t ∧ ¬ t.AtReset ∧ t.rangeLo ≠ s.rangeLo) := by
  refine ⟨⟨{ resetting with inputs := [.slot false] }, _, resetting_inv.congr rfl rfl, rfl,
      not_reset_of State.presence (by decide), by decide⟩,
    ⟨{ fresh.accept .readBit 0 with inputs := [.slot true] }, _,
      (fresh_inv.accept rfl (by decide) 0).congr rfl rfl, rfl, not_reset_of State.rxdata (by decide), by decide⟩,
    ⟨{ validating with inputs := [.slot true], sp := #v[1, 0, 0, 0, 0, 0, 0, 0, 0] }, _,
      validating_inv.congr rfl rfl, rfl, not_reset_of State.done (by decide), by decide +kernel⟩,
    ⟨{ fresh with inputs := [.access (Access.writeOf .sp0 0x00000001) true] }, _, fresh_inv.congr rfl rfl, rfl,
      not_reset_of State.sp (by decide), by decide⟩,
    ⟨{ fresh with inputs := [.access (Access.writeOf .range 0x00000001) true] }, _, fresh_inv.congr rfl rfl, rfl,
      not_reset_of State.rangeLo (by decide), by decide⟩⟩
/-- ERR_CMD, ERR_BUSY and DONE are cleared by a host write of 1, and DONE by the acceptance of a command. -/
theorem witness_StickyBitsStaySet :
    (∃ s t, Inv s ∧ step s = .next t ∧ ¬ t.AtReset ∧ s.errCmd = true ∧ t.errCmd = false) ∧
    (∃ s t, Inv s ∧ step s = .next t ∧ ¬ t.AtReset ∧ s.errBusy = true ∧ t.errBusy = false) ∧
    (∃ s t, Inv s ∧ step s = .next t ∧ ¬ t.AtReset ∧ s.done = true ∧ t.done = false ∧ s.busy = false ∧ t.busy = true) ∧
    (∃ s t, Inv s ∧ step s = .next t ∧ ¬ t.AtReset ∧ s.done = true ∧ t.done = false ∧ t.busy = false) := by
  refine ⟨⟨{ fresh with errCmd := true, done := true, inputs := [.access (Access.writeOf .status 0x4) true] }, _,
      fresh_inv.congr rfl rfl, rfl, not_reset_of State.done (by decide), rfl, by decide⟩,
    ⟨{ fresh with errBusy := true, done := true, inputs := [.access (Access.writeOf .status 0x8) true] }, _,
      fresh_inv.congr rfl rfl, rfl, not_reset_of State.done (by decide), rfl, by decide⟩,
    ⟨{ fresh with done := true, inputs := [.access (toCmd 0x00000001) true] }, _, fresh_inv.congr rfl rfl, rfl,
      not_reset_of State.busy (by decide), rfl, by decide, rfl, by decide⟩,
    ⟨{ fresh with errCmd := true, done := true, inputs := [.access (Access.writeOf .status 0x2) true] }, _,
      fresh_inv.congr rfl rfl, rfl, not_reset_of State.errCmd (by decide), rfl, by decide, by decide⟩⟩
/-- An illegal opcode while idle, a RANGE write while busy, and the completion of RESET. -/
theorem witness_StickyBitsRiseByTheirCause :
    (∃ s t, Inv s ∧ step s = .next t ∧ s.errCmd = false ∧ t.errCmd = true) ∧
    (∃ s t, Inv s ∧ step s = .next t ∧ s.errBusy = false ∧ t.errBusy = true) ∧
    (∃ s t, Inv s ∧ step s = .next t ∧ s.done = false ∧ t.done = true) :=
  ⟨⟨{ fresh with inputs := [.access (toCmd 0x00000008) true] }, _, fresh_inv.congr rfl rfl, rfl, rfl, by decide⟩,
    ⟨{ resetting with inputs := [.access (Access.writeOf .range 0) true] }, _, resetting_inv.congr rfl rfl, rfl, rfl,
      by decide⟩,
    ⟨{ resetting with inputs := [.slot true] }, _, resetting_inv.congr rfl rfl, rfl, rfl, by decide⟩⟩
theorem witness_HostDoesNotDisturbCommand : resetting.busy = true ∧ (toCmd 0x00000006).isSoftReset = false ∧
    (∃ t, portAccess (toCmd 0x00000006) true resetting = .next t) ∧
    (∃ t, clockAccess (toCmd 0x00000006) true resetting = .next t) :=
  ⟨rfl, by decide, portAccess_next _ _ _, clockAccess_next _ _ _⟩
/-- A reset slot, a read slot and a write slot at their starts, and VALIDATE with all its edges left. -/
theorem witness_ClockedSlotIsSlotStep :
    (∀ k ∈ [SlotKind.rst, .r, .w0], ∃ s, Inv s ∧ s.rstN = true ∧ s.kind = some k ∧ s.slotClks = 0 ∧
      (List.replicate (k.total * Config.usDiv - s.slotClks) true).length = k.total * Config.usDiv - s.slotClks) ∧
    (Inv validating ∧ validating.rstN = true ∧ validating.curOp = .validate ∧
      (List.replicate (Config.vCycles - validating.vCnt) true).length = Config.vCycles - validating.vCnt) := by
  have hz : ∀ op, (fresh.accept op 0).slotClks = 0 := fun op => by simp [State.slotClks, State.accept]
  refine ⟨fun k hk => ?_, validating_inv, rfl, rfl, List.length_replicate⟩
  simp only [List.mem_cons, List.not_mem_nil, or_false] at hk
  rcases hk with rfl | rfl | rfl
  · exact ⟨resetting, resetting_inv, rfl, rfl, hz _, List.length_replicate⟩
  · exact ⟨fresh.accept .readBit 0, fresh_inv.accept rfl (by decide) 0, rfl, rfl, hz _, List.length_replicate⟩
  · exact ⟨fresh.accept .writeBit 0, fresh_inv.accept rfl (by decide) 0, rfl, rfl, hz _, List.length_replicate⟩
/-- Each command is accepted from a state that meets the invariant, and runs for more than no time. -/
theorem witness_CommandDurations : Inv fresh ∧ fresh.rstN = true ∧ fresh.busy = false ∧
    (∀ i ∈ [Instr.reset 0, .writeBit true 0, .readBit 0, .writeByte 0xCC, .readByte 0, .readSp 0, .validate 0],
      ∃ t, exec i fresh = .next t) ∧
    (∀ n ∈ [960, 70, 560, 5040], ([] : List Bool).length < n * Config.usDiv ∧
      (List.replicate (n * Config.usDiv) true).length = n * Config.usDiv) ∧
    ([] : List Bool).length < Config.vCycles ∧ (List.replicate Config.vCycles true).length = Config.vCycles := by
  refine ⟨fresh_inv, rfl, rfl, fun i _ => exec_next i fresh, fun n hn => ⟨?_, List.length_replicate⟩,
    Config.vCycles_pos, List.length_replicate⟩
  have : 0 < n := by revert n; decide
  exact Nat.mul_pos this Config.usDiv_pos
theorem witness_LowPhaseTiming : Inv resetting ∧ resetting.rstN = true ∧ resetting.kind = some .rst ∧
    resetting.slotClks = 0 ∧ (List.replicate (480 * Config.usDiv) true).length < SlotKind.rst.total * Config.usDiv := by
  refine ⟨resetting_inv, rfl, rfl, by simp [State.slotClks, resetting, State.accept], ?_⟩
  rw [List.length_replicate]
  exact Nat.mul_lt_mul_of_pos_right (by decide) Config.usDiv_pos
theorem witness_LineReleasedUnlessInSlot : (Inv fresh ∧ fresh.curOp = .idle) ∧
    (Inv (fresh.setRstN false) ∧ (fresh.setRstN false).rstN = false) ∧
    (Inv validating ∧ validating.curOp = .validate) ∧ (Inv resetting ∧ resetting.dqOe = true) :=
  ⟨⟨fresh_inv, rfl⟩, ⟨fresh_inv.setRstN false, rfl⟩, ⟨validating_inv, rfl⟩, resetting_inv, rfl⟩
theorem witness_LineShowsSynchronizedLevel : (fresh.rstN = true ∧ fresh.sync.length = Config.syncClks ∧
    (List.replicate Config.syncClks false).length = Config.syncClks) ∧ (Inv resetting ∧ resetting.dqOe = true) ∧
    ((Access.readOf .status).isDefined = true ∧ (Access.readOf .status).write = false ∧
      regAt (Access.readOf .status).addr = .status ∧
      ({ resetting with inputs := [.clockAccess (Access.readOf .status) true] } : State).inputs =
        [.clockAccess (Access.readOf .status) true] ∧
      ({ resetting with inputs := [.access (Access.readOf .status) true] } : State).inputs =
        [.access (Access.readOf .status) true]) :=
  ⟨⟨rfl, List.length_replicate, List.length_replicate⟩, ⟨resetting_inv, rfl⟩, by decide, rfl, by decide, rfl, rfl⟩
theorem witness_CompletionEdgeOrder : Inv validated ∧ validated.rstN = true ∧ validated.busy = true ∧
    (validated.clockEdge true).busy = false := by
  refine ⟨validated_inv, rfl, rfl, ?_⟩
  rcases validate_clockEdge (s := validated) rfl rfl true with ⟨h, _⟩ | ⟨_, h, _⟩
  · exact absurd rfl h
  · exact h
theorem witness_RunningCommandTerminates : Inv resetting ∧ resetting.inputs = [] ∧ resetting.busy = true ∧
    Inv validating ∧ validating.inputs = [] ∧ validating.busy = true :=
  ⟨resetting_inv, rfl, rfl, validating_inv, rfl, rfl⟩
theorem witness_StepPerformsHostAccess : (Access.writeOf .sp0 0x12345678).isDefined = true ∧
    ({ fresh with inputs := [.access (Access.writeOf .sp0 0x12345678) true] } : State).inputs =
      [.access (Access.writeOf .sp0 0x12345678) true] ∧
    MemOp.toAccess ⟨Config.owBase + 0x3C, 4, none⟩ = some ⟨false, 0x3C, 0b10, 0⟩ ∧
    (Access.mk false 0x3C 0b10 0).isDefined = true ∧
    ({ fresh with inputs := [.mem ⟨Config.owBase + 0x3C, 4, none⟩ true] } : State).inputs =
      [.mem ⟨Config.owBase + 0x3C, 4, none⟩ true] ∧
    Inv { resetting with inputs := [.clockAccess (Access.writeOf .sp0 0x12345678) true] } :=
  ⟨by decide, rfl, MemOp.toAccess_in (by decide) 4 none, by decide, rfl, resetting_inv.congr rfl rfl⟩

end Sys2Proof.Machine
end

section
/-! PROOFS of the statements of 00_scope.md: what a step does with the inputs that are no host access, and the level
STATUS.LINE shows. -/

namespace Sys2Proof.Machine

theorem step_slot {s : State} {d : Bool} {rest : List Input} (h : s.inputs = .slot d :: rest) :
    step s = .next (State.slotStep d { s with inputs := rest }) := by
  rw [step_cons h, ← State.consume_cons h, deliver]

theorem step_clock {s : State} {l : Bool} {rest : List Input} (h : s.inputs = .clock l :: rest) :
    step s = .next (State.clockEdge l { s with inputs := rest }) := by
  rw [step_cons h, ← State.consume_cons h, deliver]

theorem step_rst {s : State} {l : Bool} {rest : List Input} (h : s.inputs = .rst l :: rest) :
    step s = .next (State.setRstN l { s with inputs := rest }) := by
  rw [step_cons h, ← State.consume_cons h, deliver]

/-- With nothing pending and no command running, the machine rests (R236). -/
theorem step_idle {s : State} (h : s.inputs = []) (ho : s.curOp = .idle) : step s = .next s := by
  simp only [step, h, State.controllerAlone, if_pos ho]

theorem step_access {s : State} {a : Access} {line : Bool} {rest : List Input} (hd : a.isDefined = true)
    (h : s.inputs = .access a line :: rest) :
    step s = portAccess a (s.drawnLine line) { s with inputs := rest } := by
  rw [step_cons h, deliver, guardAccess_defined hd, State.consume_cons h]

theorem step_clockAccess {s : State} {a : Access} {line : Bool} {rest : List Input} (hd : a.isDefined = true)
    (h : s.inputs = .clockAccess a line :: rest) : step s = clockAccess a line { s with inputs := rest } := by
  rw [step_cons h, deliver, guardAccess_defined hd, State.consume_cons h]

/-- Settles O9, by one equation of the step for each kind of input. -/
theorem stepTakesOtherInputs : Obligations.StepTakesOtherInputs :=
  fun _ _ => ⟨fun _ => step_slot, fun _ => step_clock, fun _ => step_rst, step_idle, step_alone⟩

/-- Bit 7 of the STATUS word is LINE (R25). -/
theorem State.statusWord_line (s : State) (line : Bool) : (s.statusWord line).getLsbD 7 = line := by
  -- The concatenation is split first: `simp` alone turns bit 7 into a form it cannot split.
  simp only [State.statusWord, BitVec.getLsbD_append]
  simp

theorem portAccess_read {s : State} {a : Access} (hr : s.rstN = true) (hw : a.write = false) (line : Bool) :
    portAccess a line s = .next { s with hRdata := s.readReg (regAt a.addr) line } := by
  simp [portAccess, hr, hw]

/-- On a clock edge with a read, the controller's move leaves the port's answer as the read gave it (R198). -/
theorem clockAccess_read_hRdata {s t : State} {a : Access} {line : Bool} (hr : s.rstN = true) (hw : a.write = false)
    (h : clockAccess a line s = .next t) : t.hRdata = s.readReg (regAt a.addr) (s.syncedLine line) := by
  obtain ⟨u, hu, ht⟩ := clockAccess_cases h
  obtain rfl := Host.Outcome.next.inj ((portAccess_read hr hw _).symm.trans hu)
  rcases ht with ⟨_, rfl⟩ | ⟨_, _, rfl⟩ | ⟨_, _, _, rfl⟩ | ⟨_, _, _, rfl⟩
  · rfl
  · rfl
  · rfl
  · exact (State.cycle_frame _ _).hRdata

/-- After `SYNC_CLKS` edges the synchronizer shows the line as it was on the first of them (R30, R115). -/
theorem State.syncedLine_clockEdges {s : State} {lines : List Bool} (hr : s.rstN = true)
    (hl : lines.length = s.sync.length) (line : Bool) :
    (s.clockEdges lines).syncedLine line = s.dqIn ((lines ++ [line]).headD true) := by
  have hlen := State.clockEdges_sync_length hr lines
  cases lines with
  | nil => exact State.syncedLine_zero hl.symm line
  | cons l ls =>
    rw [← hl] at hlen
    apply Option.some.inj
    rw [State.syncedLine_eq hlen, State.clockEdges_sync hr _ ls.length 0 (by simp [← hl]) (by simp)]
    rfl

/-- The block's own drive shows as a 0 once it has passed all stages of the synchronizer (R15, R30). -/
theorem Inv.syncedLine_low {s : State} (h : Inv s) (hd : s.dqOe = true) (hc : Config.syncClks ≤ s.slotClks)
    (line : Bool) : s.syncedLine line = false := by
  have hlen := h.sync_length
  cases hn : Config.syncClks with
  | zero => rw [State.syncedLine_zero (hlen.trans hn), State.dqIn, hd, Bool.not_true, Bool.and_false]
  | succ n =>
    apply Option.some.inj
    rw [State.syncedLine_eq (hlen.trans hn), h.sync_low hd n (by omega) (by omega)]

theorem State.drawnLine_low {s : State} (hd : s.dqOe = true) (h0 : s.slotClks ≠ 0) (hc : Config.syncClks ≤ s.slotClks)
    (line : Bool) : s.drawnLine line = false := by
  simp [State.drawnLine, State.heldLow, hd, Nat.pos_of_ne_zero h0, hc]

/-- Settles O57: a read returns the level it was given, the synchronizer is a shift register, and by the invariant its
stages filled since the slot began hold 0 while the block drives low. -/
theorem lineShowsSynchronizedLevel : Obligations.LineShowsSynchronizedLevel := by
  refine ⟨fun s a line rest hr hd hw hreg => ⟨fun hi => ?_, fun hi => ?_⟩, fun s line lines hr hs hl => ?_,
    fun s line h hd => ?_⟩
  · obtain ⟨t, ht⟩ := clockAccess_next a line { s with inputs := rest }
    refine ⟨t, (step_clockAccess hd hi).trans ht, ?_⟩
    rw [clockAccess_read_hRdata (s := { s with inputs := rest }) hr hw ht, hreg]
    exact State.statusWord_line _ _
  · refine ⟨_, (step_access hd hi).trans (portAccess_read (s := { s with inputs := rest }) hr hw _), ?_⟩
    rw [hreg]
    exact State.statusWord_line _ _
  · exact State.syncedLine_clockEdges hr (hl.trans hs.symm) line
  · by_cases hc : Config.syncClks ≤ s.slotClks
    · by_cases h0 : s.slotClks = 0
      · exact ⟨.inl (h.syncedLine_low hd hc line), .inr (.inl h0)⟩
      · exact ⟨.inl (h.syncedLine_low hd hc line), .inl (State.drawnLine_low hd h0 hc line)⟩
    · have hlt := Nat.lt_of_not_le hc
      exact ⟨.inr hlt, .inr (.inr hlt)⟩

end Sys2Proof.Machine
end

section
/-! PROOFS of the statements of 10_state.md about steps. Each step that is no reset is a host part, which only the pending
access can have made, followed by at most one move of the controller (R198): the statements about who writes a register
and what moves a sticky bit follow from what each of the two parts can do. -/

namespace Sys2Proof.Machine

theorem State.nextAccess.mono {s : State} {p q : Access → Prop} (h : s.nextAccess p) (hpq : ∀ a, p a → q a) :
    s.nextAccess q := by
  obtain ⟨i, rest, a, hi, ha, hd, hp⟩ := h
  exact ⟨i, rest, a, hi, ha, hd, hpq a hp⟩

/-- The access is a write to the register `r`. -/
def Access.writes (r : Reg) (a : Access) : Prop := a.write = true ∧ regAt a.addr = r

/-- The access is a write to one of the SP registers. -/
def Access.writesSp (a : Access) : Prop :=
  a.write = true ∧ (regAt a.addr = .sp0 ∨ regAt a.addr = .sp1 ∨ regAt a.addr = .sp2)

/-- What the host part of a step that is no reset, from `s` to `u`, writes in the registers: only what the pending
access allows (R24, R28, R29, R32 to R35). -/
structure HostWrites (s u : State) : Prop where
  presence : u.presence = s.presence
  rxdata : u.rxdata = s.rxdata
  crcCalc : u.crcCalc = s.crcCalc
  verdict : s.SameVerdict u ∨ (s.busy = false ∧ u.curOp = .readSp ∧ s.nextAccess (Access.writes .cmd)) ∨
    (s.busy = false ∧ s.nextAccess Access.writesSp)
  sp : u.sp = s.sp ∨ (s.busy = false ∧ s.nextAccess Access.writesSp)
  range : (u.rangeLo = s.rangeLo ∧ u.rangeHi = s.rangeHi) ∨ (s.busy = false ∧ s.nextAccess (Access.writes .range))
  enables : (u.ieDone = s.ieDone ∧ u.ieErr = s.ieErr ∧ u.rangeEn = s.rangeEn) ∨ s.nextAccess (Access.writes .ctrl)

/-- What the host part of a step that is no reset does to the sticky bits (R25, R27, R192, R193). -/
structure HostSticky (s u : State) : Prop where
  errCmd_falls : s.errCmd = true → u.errCmd = false →
    s.nextAccess fun a => a.write = true ∧ regAt a.addr = .status ∧ a.wdata.getLsbD 2 = true
  errBusy_falls : s.errBusy = true → u.errBusy = false →
    s.nextAccess fun a => a.write = true ∧ regAt a.addr = .status ∧ a.wdata.getLsbD 3 = true
  done_falls : s.done = true → u.done = false → (s.busy = false ∧ u.busy = true) ∨
    s.nextAccess fun a => a.write = true ∧ regAt a.addr = .status ∧ a.wdata.getLsbD 1 = true
  errCmd_rises : s.errCmd = false → u.errCmd = true → s.busy = false ∧ s.nextAccess fun a =>
    a.write = true ∧ regAt a.addr = .cmd ∧ ((opField a.wdata).toNat = 0 ∨ 8 ≤ (opField a.wdata).toNat)
  errBusy_rises : s.errBusy = false → u.errBusy = true → s.busy = true ∧ s.nextAccess fun a =>
    a.write = true ∧ (regAt a.addr = .cmd ∨ regAt a.addr = .sp0 ∨ regAt a.addr = .sp1 ∨ regAt a.addr = .sp2 ∨
      regAt a.addr = .range)
  done_stays_clear : s.done = false → u.done = false

/-- The host part of a step that is no reset: what it writes, and that it leaves a running command running. -/
structure HostPart (s u : State) : Prop where
  writes : HostWrites s u
  sticky : HostSticky s u
  running : s.busy = true → u.busy = true ∧ u.curOp = s.curOp ∧ u.rangeEnL = s.rangeEnL

/-- The host part changes nothing but the ghost flag, the ports, the synchronizer and the model's own fields. -/
theorem HostPart.of_quiet {s u : State} (e : u = { s with
      viol := u.viol, rstN := u.rstN, hRdata := u.hRdata, sync := u.sync, inputs := u.inputs, draws := u.draws }) :
    HostPart s u := by
  rw [e]
  refine ⟨⟨rfl, rfl, rfl, .inl ⟨rfl, rfl, rfl⟩, .inl rfl, .inl ⟨rfl, rfl⟩, .inl ⟨rfl, rfl, rfl⟩⟩, ?_,
    fun hb => ⟨hb, rfl, rfl⟩⟩
  constructor <;> simp +contextual

theorem Access.isSoftReset_iff {a : Access} :
    a.isSoftReset = true ↔ a.write = true ∧ regAt a.addr = .ctrl ∧ a.wdata.getLsbD 0 = true := by
  simp [Access.isSoftReset, and_assoc]

section WriteCase
/-! A write by the pending access `a`, no soft reset, in the state `s` but for the ghost flag and the inputs. -/

variable {s u : State} {a : Access} {b : Bool} {l : List Input}

theorem WriteCase.hostWrites (hn : s.nextAccess (· = a)) (hw : a.write = true) (hs : a.isSoftReset = false)
    (h : WriteCase (regAt a.addr) a.wdata { s with viol := b, inputs := l } u) : HostWrites s u := by
  have next : ∀ p : Access → Prop, p a → s.nextAccess p := fun p hp => hn.mono fun _ e => e ▸ hp
  cases h with
  | softReset hr hv => exact absurd (Access.isSoftReset_iff.2 ⟨hw, hr, hv⟩) (by simp [hs])
  | none _ ht | status _ ht | busy _ _ ht | errCmd _ _ ht =>
    subst ht
    exact ⟨rfl, rfl, rfl, .inl ⟨rfl, rfl, rfl⟩, .inl rfl, .inl ⟨rfl, rfl⟩, .inl ⟨rfl, rfl, rfl⟩⟩
  | ctrl hr _ ht =>
    subst ht
    exact ⟨rfl, rfl, rfl, .inl ⟨rfl, rfl, rfl⟩, .inl rfl, .inl ⟨rfl, rfl⟩, .inr (next _ ⟨hw, hr⟩)⟩
  | range hb hr ht =>
    subst ht
    exact ⟨rfl, rfl, rfl, .inl ⟨rfl, rfl, rfl⟩, .inl rfl, .inr ⟨hb, next _ ⟨hw, hr⟩⟩, .inl ⟨rfl, rfl, rfl⟩⟩
  | sp hb hr ht =>
    have hsp : s.busy = false ∧ s.nextAccess Access.writesSp := ⟨hb, next _ ⟨hw, by tauto⟩⟩
    rw [ht]
    exact ⟨rfl, rfl, rfl, .inr (.inr hsp), .inr hsp, .inl ⟨rfl, rfl⟩, .inl ⟨rfl, rfl, rfl⟩⟩
  | accept hb hr i _ ht =>
    rcases exec_cases ht with ⟨_, rfl⟩ | ⟨_, rfl, _⟩ | ⟨_, rfl, _⟩
    · exact ⟨rfl, rfl, rfl, .inl ⟨rfl, rfl, rfl⟩, .inl rfl, .inl ⟨rfl, rfl⟩, .inl ⟨rfl, rfl, rfl⟩⟩
    · exact ⟨rfl, rfl, rfl, .inl ⟨rfl, rfl, rfl⟩, .inl rfl, .inl ⟨rfl, rfl⟩, .inl ⟨rfl, rfl, rfl⟩⟩
    · exact ⟨rfl, rfl, rfl, .inr (.inl ⟨hb, rfl, next _ ⟨hw, hr⟩⟩), .inl rfl, .inl ⟨rfl, rfl⟩,
        .inl ⟨rfl, rfl, rfl⟩⟩

theorem WriteCase.hostSticky (hn : s.nextAccess (· = a)) (hw : a.write = true) (hs : a.isSoftReset = false)
    (h : WriteCase (regAt a.addr) a.wdata { s with viol := b, inputs := l } u) : HostSticky s u := by
  have next : ∀ p : Access → Prop, p a → s.nextAccess p := fun p hp => hn.mono fun _ e => e ▸ hp
  cases h with
  | softReset hr hv => exact absurd (Access.isSoftReset_iff.2 ⟨hw, hr, hv⟩) (by simp [hs])
  | none _ ht | ctrl _ _ ht | range _ _ ht =>
    subst ht
    constructor <;> simp +contextual
  | sp _ _ ht =>
    rw [ht]
    constructor <;> simp +contextual
  | status hr ht =>
    have cleared : ∀ {x : Bool} {k : Nat}, x = true → (x && !a.wdata.getLsbD k) = false → s.nextAccess fun a =>
        a.write = true ∧ regAt a.addr = .status ∧ a.wdata.getLsbD k = true :=
      fun hx hf => next _ ⟨hw, hr, by simpa [hx] using hf⟩
    have stays : ∀ {x : Bool} {k : Nat}, x = false → (x && !a.wdata.getLsbD k) = false := fun hx => by simp [hx]
    subst ht
    exact ⟨cleared, cleared, fun h1 h2 => .inr (cleared h1 h2),
      fun h1 h2 => absurd ((stays h1).symm.trans h2) (by simp),
      fun h1 h2 => absurd ((stays h1).symm.trans h2) (by simp), stays⟩
  | busy hb hr ht =>
    subst ht
    constructor <;> simp +contextual
    exact fun _ => ⟨hb, next _ ⟨hw, hr⟩⟩
  | errCmd hb hr ht e he =>
    have hop : (opField a.wdata).toNat = 0 ∨ 8 ≤ (opField a.wdata).toNat := by
      rcases decode_cases a.wdata with ⟨_, ho⟩ | ⟨i, hi, _⟩
      · exact ho
      · rw [he] at hi; cases hi
    subst ht
    constructor <;> simp +contextual
    exact fun _ => ⟨hb, next _ ⟨hw, hr, hop⟩⟩
  | accept hb hr i _ ht =>
    replace hb : s.busy = false := hb
    rcases exec_cases ht with ⟨hb', _⟩ | ⟨_, rfl, _⟩ | ⟨_, rfl, _⟩
    · exact absurd (hb.symm.trans hb') (by simp)
    · constructor <;> simp +contextual [hb]
    · constructor <;> simp +contextual [hb]

end WriteCase

/-- A write to a running block, no soft reset, changes only what the host may change while a command runs (R117). -/
theorem WriteCase.hideHost {s u : State} {r : Reg} {v : Word} (hb : s.busy = true)
    (hs : ¬ (r = .ctrl ∧ v.getLsbD 0 = true)) (h : WriteCase r v s u) : u.hideHost = s.hideHost := by
  cases h with
  | softReset hr hv => exact absurd ⟨hr, hv⟩ hs
  | none _ ht | ctrl _ _ ht | status _ ht | busy _ _ ht => subst ht; rfl
  | errCmd hb' | accept hb' | sp hb' | range hb' => exact absurd (hb.symm.trans hb') (by simp)

/-- An access to a running block, no soft reset, changes only what the host may change while a command runs (R117). -/
theorem portAccess_hideHost {s t : State} {a : Access} {line : Bool} (hb : s.busy = true)
    (hs : a.isSoftReset = false) (h : portAccess a line s = .next t) : t.hideHost = s.hideHost := by
  rcases portAccess_cases h with ⟨_, e⟩ | ⟨_, _, e⟩ | ⟨hw, _, hc⟩
  · rw [e]; rfl
  · rw [e]; rfl
  · exact hc.hideHost (s := s.noteReserved (regAt a.addr) a.wdata) hb fun ⟨hr, hv⟩ =>
      absurd (Access.isSoftReset_iff.2 ⟨hw, hr, hv⟩) (by simp [hs])

/-- A soft reset puts the block at its reset values (R222). -/
theorem portAccess_softReset {s t : State} {a : Access} {line : Bool} (hr : s.rstN = true)
    (hs : a.isSoftReset = true) (h : portAccess a line s = .next t) :
    t = (s.noteReserved (regAt a.addr) a.wdata).resetBlock := by
  obtain ⟨hw, hreg, hv⟩ := Access.isSoftReset_iff.1 hs
  rw [portAccess, if_pos hw] at h
  simp only [State.noteReserved_rstN, hr, if_true] at h
  rw [hreg] at h ⊢
  rw [writeReg, State.writeCtrl, if_pos hv] at h
  exact (Host.Outcome.next.inj h).symm

/-- An access that is no soft reset the block heeds is a host part of a step. -/
theorem portAccess_hostPart {s u : State} {a : Access} {line : Bool} (hn : s.nextAccess (· = a))
    (hs : s.rstN = false ∨ a.isSoftReset = false) (h : portAccess a line s.consume = .next u) : HostPart s u := by
  rcases portAccess_cases h with ⟨_, e⟩ | ⟨_, _, e⟩ | ⟨hw, hr, hc⟩
  · exact .of_quiet (by rw [e]; rfl)
  · exact .of_quiet (by rw [e]; rfl)
  · have hs : a.isSoftReset = false := hs.resolve_left fun h0 => absurd (h0.symm.trans hr) (by simp)
    refine ⟨hc.hostWrites hn hw hs, hc.hostSticky hn hw hs, fun hb => ?_⟩
    have e : u.hideHost = s.consume.hideHost := portAccess_hideHost hb hs h
    exact ⟨(congrArg State.busy e).trans hb, (congrArg State.curOp e :), (congrArg State.rangeEnL e :)⟩

/-- The synchronizer is no part of what the host part is about. -/
theorem HostPart.shiftSync {s u : State} (h : HostPart s u) (b : Bool) : HostPart s (u.shiftSync b) := by
  obtain ⟨⟨h1, h2, h3, h4, h5, h6, h7⟩, ⟨g1, g2, g3, g4, g5, g6⟩, hb⟩ := h
  exact ⟨⟨h1, h2, h3, h4, h5, h6, h7⟩, ⟨g1, g2, g3, g4, g5, g6⟩, hb⟩

/-- A host part to a running block keeps what completion publishes. -/
theorem HostPart.publishFrame {s u : State} (h : HostPart s u) (hb : s.busy = true) : PublishFrame s u := by
  obtain ⟨⟨hp, hx, hc, hv, hs, hr, _⟩, _, hrun⟩ := h
  obtain ⟨_, hop, hl⟩ := hrun hb
  simp only [hb, Bool.true_eq_false, false_and, or_false] at hv hs hr
  obtain ⟨hv1, hv2, hv3⟩ := hv
  have hcrc : u.crcNow = s.crcNow := by simp only [State.crcNow, State.crcBytes, hs]
  refine ⟨hop, ⟨hx, hp, hc, hv1, hv2, hv3⟩, fun _ => ⟨hcrc, by simp only [hs], ?_⟩⟩
  simp only [State.verdict, State.raw, hcrc, hs, hr.1, hr.2, hl]

/-- What a step is, as far as the registers and the sticky bits go. -/
inductive StepPart (s t : State) : Prop where
  /-- A reset, by `rst_n` or a soft reset (R220, R222). -/
  | reset (ht : t.AtReset) (cause : (∃ rest, s.inputs = .rst false :: rest) ∨
      s.nextAccess fun a => a.write = true ∧ regAt a.addr = .ctrl ∧ a.wdata.getLsbD 0 = true)
  /-- A host access, or nothing that moves the controller. -/
  | host (h : HostPart s t)
  /-- A move of the running controller, after a host access if there is one on the same clock edge (R198). -/
  | moved (hb : s.busy = true) (u : State) (h : HostPart s u) (hc : ControllerFrame u t) (hp : Progress u t)

theorem StepPart.of_controller {s u t : State} (hi : Inv s) (e : u = { s with inputs := u.inputs, draws := u.draws })
    (hc : ControllerFrame u t) (hp : Progress u t) : StepPart s t := by
  have hu : HostPart s u := .of_quiet (by rw [e])
  have ho : u.curOp = s.curOp := by rw [e]
  by_cases hb : s.busy = true
  · exact .moved hb u hu hc hp
  · have hidle : u.curOp = .idle := ho.trans (by simpa using mt hi.busy_iff.2 hb)
    cases hp with
    | idle _ ht => exact .host (.of_quiet (by rw [ht, e]))
    | finished hne => exact absurd hidle hne
    | running hne => exact absurd hidle hne

theorem step_parts {s t : State} (hi : Inv s) (h : step s = .next t) : StepPart s t := by
  cases step_cases h with
  | alone _ ht =>
    by_cases ho : s.curOp = .idle
    · exact .host (.of_quiet (by rw [ht, State.controllerAlone, if_pos ho]))
    · rw [State.controllerAlone, if_neg ho] at ht
      exact ht ▸ .of_controller hi rfl (State.slotStep_frame _ _) (slotStep_progress _ _)
  | undefined _ _ _ _ _ _ _ ht => exact .host (.of_quiet (by rw [ht]))
  | outside _ _ _ _ _ ht => exact .host (.of_quiet (by rw [ht]; rfl))
  | slot d _ _ ht => exact ht ▸ .of_controller hi rfl (State.slotStep_frame _ _) (slotStep_progress _ _)
  | clock l _ _ ht => exact ht ▸ .of_controller hi rfl (State.clockEdge_frame _ _) (clockEdge_progress _ _)
  | rst l rest hin ht =>
    cases l with
    | false => exact .reset (ht ▸ rfl) (.inl ⟨rest, hin⟩)
    | true => exact .host (.of_quiet (by rw [ht]; rfl))
  | access i rest a line hin ha hd _ ht =>
    have hn : s.nextAccess (· = a) := ⟨i, rest, a, hin, ha, hd, rfl⟩
    by_cases hs : s.rstN = false ∨ a.isSoftReset = false
    · exact .host (portAccess_hostPart hn hs ht)
    · simp only [not_or, Bool.not_eq_false] at hs
      exact .reset (portAccess_softReset (s := s.consume) hs.1 hs.2 ht ▸ rfl)
        (.inr (hn.mono fun _ e => e ▸ Access.isSoftReset_iff.1 hs.2))
  | clocked rest a line hin hd ht =>
    have hn : s.nextAccess (· = a) := ⟨_, rest, a, hin, rfl, hd, rfl⟩
    obtain ⟨u, hu, hc⟩ := clockAccess_cases ht
    rcases hc with ⟨hr, rfl⟩ | ⟨hs, hr, rfl⟩ | ⟨_, hs, _, rfl⟩ | ⟨_, hs, ho, rfl⟩
    · exact .host (portAccess_hostPart hn (.inl hr) hu)
    · exact .reset (portAccess_softReset (s := s.consume) hr hs hu ▸ rfl)
        (.inr (hn.mono fun _ e => e ▸ Access.isSoftReset_iff.1 hs))
    · exact .host ((portAccess_hostPart hn (.inr hs) hu).shiftSync _)
    · exact .moved (hi.busy_iff.2 ho) _ ((portAccess_hostPart hn (.inr hs) hu).shiftSync _)
        (State.cycle_frame _ _) (cycle_progress _ _)

/-! ## The statements about steps -/

theorem Inv.controllerAlone {s : State} (h : Inv s) : Inv s.controllerAlone := by
  unfold State.controllerAlone
  split
  · exact h
  · exact h.countDraw.slotStep _

/-- Settles O47, by the operation each step performs. -/
theorem stepKeepsInvariant : Obligations.StepKeepsInvariant := by
  intro s t h hs
  cases step_cases hs with
  | alone _ ht => exact ht ▸ h.controllerAlone
  | undefined _ _ _ _ _ _ _ ht => exact ht ▸ h.viol true
  | outside _ _ _ _ _ ht => exact ht ▸ h.consume
  | slot d _ _ ht => exact ht ▸ h.consume.slotStep d
  | clock l _ _ ht => exact ht ▸ h.consume.clockEdge l
  | rst l _ _ ht => exact ht ▸ h.consume.setRstN l
  | access _ _ _ _ _ _ _ _ ht => exact h.consume.portAccess ht
  | clocked _ _ _ _ _ ht => exact h.consume.clockAccess ht

theorem State.SameResults.trans {s u t : State} (h : State.SameResults s u) (g : State.SameResults u t) :
    State.SameResults s t := by
  obtain ⟨h1, h2, h3, h4, h5, h6⟩ := h
  obtain ⟨g1, g2, g3, g4, g5, g6⟩ := g
  exact ⟨g1.trans h1, g2.trans h2, g3.trans h3, g4.trans h4, g5.trans h5, g6.trans h6⟩

/-- Settles O48: a host part leaves the results alone, and the controller's move publishes them or leaves them alone. -/
theorem resultsPublishedAtCompletion : Obligations.ResultsPublishedAtCompletion := by
  intro s t h hb hs
  cases step_parts h hs with
  | reset ht cause => exact .inl ⟨ht, cause⟩
  | host hp =>
    obtain ⟨htb, hto, _⟩ := hp.running hb
    exact .inr (.inr ⟨htb, hto, (hp.publishFrame hb).results⟩)
  | moved _ u hp _ hg =>
    have hf := hp.publishFrame hb
    obtain ⟨hub, huo, _⟩ := hp.running hb
    right
    cases hg with
    | idle ho => exact absurd (huo.symm.trans ho) (h.busy_iff.1 hb)
    | finished _ htb htd htc _ _ _ _ _ hpub =>
      refine .inl ⟨htb, htd, htc, ?_⟩
      replace hpub := hpub.of_frame hf
      unfold State.Publishes State.crcNow at hpub
      cases ho : s.curOp <;> rw [ho] at hpub
      case idle => exact hpub.elim
      all_goals
        obtain ⟨hx, hp, hc, hk, hv, hr⟩ := hpub
        simp only [Prod.mk.injEq]
        exact ⟨hp, hx, hc, hk, hv, hr⟩
    | running _ htb _ hto hr => exact .inr ⟨htb.trans hub, hto.trans huo, hf.results.trans hr⟩

theorem State.sameVerdict_iff {s t : State} :
    s.SameVerdict t ↔ ¬ (t.crcOk ≠ s.crcOk ∨ t.valid ≠ s.valid ∨ t.result ≠ s.result) := by
  simp [State.SameVerdict]

/-- Settles O49: a host part writes what its access allows, the controller what its command allows. -/
theorem registersHaveOneWriter : Obligations.RegistersHaveOneWriter := by
  intro s t h hs hn
  cases step_parts h hs with
  | reset ht => exact absurd ht hn
  | host hh =>
    obtain ⟨hp, hx, hc, hv, hsp, hr, he⟩ := hh.writes
    exact ⟨fun h => absurd hp h, fun h => absurd hx h, fun h => absurd hc h,
      fun h => .inr (hv.resolve_left fun e => State.sameVerdict_iff.1 e h), fun h => .inr (hsp.resolve_left h),
      fun h => hr.resolve_left fun ⟨e1, e2⟩ => h.elim (· e1) (· e2),
      fun h => he.resolve_left fun ⟨e1, e2, e3⟩ => h.elim (· e1) (·.elim (· e2) (· e3))⟩
  | moved hb u hh hc hg =>
    obtain ⟨ho, ⟨hx, hp, hcrc, hsame⟩, _⟩ := hh.publishFrame hb
    obtain ⟨-, -, -, -, hsp, hr, he⟩ := hh.writes
    obtain ⟨wp, wx, wc, wsp, -⟩ := hg.writers
    rw [ho, hp] at wp
    rw [ho, hx] at wx
    rw [ho, hcrc] at wc
    rw [ho, hsp.resolve_right (by simp [hb])] at wsp
    rw [← hc.rangeLo, ← hc.rangeHi] at hr
    rw [← hc.ieDone, ← hc.ieErr, ← hc.rangeEn] at he
    refine ⟨wp, wx, wc, fun h => .inl ?_, fun h => .inl (wsp h),
      fun h => hr.resolve_left fun ⟨e1, e2⟩ => h.elim (· e1) (· e2),
      fun h => he.resolve_left fun ⟨e1, e2, e3⟩ => h.elim (· e1) (·.elim (· e2) (· e3))⟩
    rcases hg.verdict with ⟨e1, e2, e3⟩ | hval
    · exact absurd h (State.sameVerdict_iff.1 ⟨e1.trans hsame.1, e2.trans hsame.2.1, e3.trans hsame.2.2⟩)
    · rwa [ho] at hval

/-- Settles O50: the controller clears no sticky bit, so the host part did. -/
theorem stickyBitsStaySet : Obligations.StickyBitsStaySet := by
  intro s t h hs hn
  cases step_parts h hs with
  | reset ht => exact absurd ht hn
  | host hh => exact ⟨hh.sticky.errCmd_falls, hh.sticky.errBusy_falls, hh.sticky.done_falls⟩
  | moved hb u hh hc hg =>
    obtain ⟨-, -, -, -, wd⟩ := hg.writers
    rw [hc.errCmd, hc.errBusy]
    refine ⟨hh.sticky.errCmd_falls, hh.sticky.errBusy_falls, fun hd hd' => ?_⟩
    rcases hh.sticky.done_falls hd (wd hd') with ⟨hb', _⟩ | hnext
    · exact absurd (hb.symm.trans hb') (by simp)
    · exact .inr hnext

/-- Settles O51: a reset raises nothing, a host part raises the errors by their causes, and the controller raises DONE
at completion. -/
theorem stickyBitsRiseByTheirCause : Obligations.StickyBitsRiseByTheirCause := by
  intro s t h hs
  cases step_parts h hs with
  | reset ht =>
    rw [← show t.resetBlock = t from ht]
    simp
  | host hh =>
    exact ⟨hh.sticky.errCmd_rises, hh.sticky.errBusy_rises,
      fun hd hd' => absurd ((hh.sticky.done_stays_clear hd).symm.trans hd') (by simp)⟩
  | moved hb u hh hc hg =>
    rw [hc.errCmd, hc.errBusy]
    refine ⟨hh.sticky.errCmd_rises, hh.sticky.errBusy_rises, fun hd hd' => ⟨hb, ?_⟩⟩
    have hud := hh.sticky.done_stays_clear hd
    cases hg with
    | idle _ ht => rw [ht, hud] at hd'; cases hd'
    | finished _ htb => exact htb
    | running _ _ htd => rw [htd, hud] at hd'; cases hd'

theorem clockAccess_viol {a : Access} {line : Bool} {s t : State} (h : clockAccess a line s = .next t) :
    t.viol = (s.viol || (a.write && reservedSet (regAt a.addr) a.wdata)) := by
  obtain ⟨u, hu, hc⟩ := clockAccess_cases h
  rw [← portAccess_viol hu]
  rcases hc with ⟨_, rfl⟩ | ⟨_, _, rfl⟩ | ⟨_, _, _, rfl⟩ | ⟨_, _, _, rfl⟩
  · rfl
  · rfl
  · rfl
  · exact (State.cycle_frame _ _).viol

theorem Input.violates_of_access {i : Input} {a : Access} (h : i.access? = some a) : i.violates = a.violates := by
  cases i with
  | access b _ | clockAccess b _ => cases h; rfl
  | mem m _ => simp only [Input.access?] at h; simp only [Input.violates, h]
  | slot _ | clock _ | rst _ => cases h

theorem Access.violates_defined {a : Access} (h : a.isDefined = true) :
    a.violates = (a.write && reservedSet (regAt a.addr) a.wdata) := by
  simp [Access.violates, h]

theorem State.setRstN_viol (s : State) (l : Bool) : (s.setRstN l).viol = s.viol := by cases l <;> rfl

/-- Settles O43, by what each kind of step does to the flag. -/
theorem violSetAndNeverCleared : Obligations.ViolSetAndNeverCleared := by
  refine ⟨rfl, fun s t hs => ?_⟩
  cases step_cases hs with
  | alone hi ht =>
    rw [hi, ht, State.controllerAlone]
    split
    · simp
    · simp [(State.slotStep_frame _ _).viol]
  | undefined i rest a hi ha hd _ ht => simp [hi, ht, Input.violates_of_access ha, Access.violates, hd]
  | outside m line rest hi hm ht => simp [hi, ht, Input.violates, hm]
  | slot d rest hi ht => simp [hi, ht, Input.violates, (State.slotStep_frame _ _).viol]
  | clock l rest hi ht => simp [hi, ht, Input.violates, (State.clockEdge_frame _ _).viol]
  | rst l rest hi ht => simp [hi, ht, Input.violates, State.setRstN_viol]
  | access i rest a line hi ha hd hp ht => simp [hi, hp, portAccess_viol ht]
  | clocked rest a line hi hd ht => simp [hi, clockAccess_viol ht, Input.violates, Access.violates_defined hd]

/-- On a clock edge while a command runs, the access is made first, and then the engine moves (R198). -/
theorem clockAccess_running {s : State} {a : Access} (h : Inv s) (hr : s.rstN = true) (hb : s.busy = true)
    (hs : a.isSoftReset = false) (line : Bool) :
    ∃ u, portAccess a (s.syncedLine line) s = .next u ∧
      clockAccess a line s = .next (State.cycle (s.syncedLine line) (u.shiftSync (s.dqIn line))) := by
  obtain ⟨u, hu⟩ := portAccess_next a (s.syncedLine line) s
  refine ⟨u, hu, ?_⟩
  unfold clockAccess
  rw [hu]
  simp [hr, hs, h.busy_iff.1 hb]

/-- On a clock edge while a command runs, an access that is no soft reset does not change how the engine moves (R117). -/
theorem clockAccess_hideHost {s t : State} {a : Access} {line : Bool} (h : Inv s) (hr : s.rstN = true)
    (hb : s.busy = true) (hs : a.isSoftReset = false) (ht : clockAccess a line s = .next t) :
    t.hideHost = (s.clockEdge line).hideHost := by
  obtain ⟨u, hu, hc⟩ := clockAccess_running h hr hb hs line
  obtain rfl := Host.Outcome.next.inj (hc.symm.trans ht)
  rw [State.clockEdge_run hr, ← State.hideHost_cycle, ← State.hideHost_cycle (s.shiftSync _)]
  exact congrArg (fun w => (State.cycle _ (State.shiftSync _ w)).hideHost) (portAccess_hideHost hb hs hu)

end Sys2Proof.Machine
end

section
/-! PROOFS of the statements of 10_state.md about single registers: what a read of each returns, what a write to each
does, and the invariant at reset. -/

namespace Sys2Proof.Machine

/-! ## The register map and the words read -/

theorem index_toNat (a : BitVec 6) : (a.extractLsb' 2 4).toNat = a.toNat / 4 := by
  have := a.isLt
  rw [BitVec.extractLsb'_toNat, Nat.shiftRight_eq_div_pow]
  omega

/-- Settles O29: the word index is the offset divided by 4. -/
theorem registerMap : Obligations.RegisterMap := by
  refine ⟨regAt_offset, fun a h => ?_, fun a b h => ?_⟩
  · have h10 : 10 ≤ (a.extractLsb' 2 4).toNat := by rw [index_toNat]; omega
    unfold regAt
    split
    case h_11 => rfl
    all_goals omega
  · unfold regAt
    rw [index_toNat, index_toNat, h]

theorem append_toNat {n m : Nat} (x : BitVec n) (y : BitVec m) : (x ++ y).toNat = 2 ^ m * x.toNat + y.toNat := by
  rw [BitVec.toNat_append, ← Nat.shiftLeft_add_eq_or_of_lt y.isLt, Nat.shiftLeft_eq, Nat.mul_comm]

/-- Four bytes as a register holds them (R65). -/
theorem bytes_toNat (b3 b2 b1 b0 : Byte) :
    (b3 ++ b2 ++ b1 ++ b0 : BitVec 32).toNat =
      b0.toNat + 256 * b1.toNat + 65536 * b2.toNat + 16777216 * b3.toNat := by
  simp only [append_toNat]
  omega

theorem halves_toNat (hi lo : Half) : (hi ++ lo : BitVec 32).toNat = lo.toNat + 65536 * hi.toNat := by
  simp only [append_toNat]
  omega

theorem enables_toNat (a b c : Bool) :
    (0#28 ++ BitVec.ofBool a ++ BitVec.ofBool b ++ BitVec.ofBool c ++ 0#1 : BitVec 32).toNat =
      2 * c.toNat + 4 * b.toNat + 8 * a.toNat := by
  cases a <;> cases b <;> cases c <;> rfl

/-- Settles O30: each word is put together from its fields (R63). -/
theorem readsHaveNoSideEffect : Obligations.ReadsHaveNoSideEffect := by
  refine ⟨fun s a line hr hw => portAccess_read hr hw line, fun s line => ?_⟩
  exact ⟨enables_toNat _ _ _, rfl, BitVec.toNat_setWidth_of_le (by decide), BitVec.toNat_setWidth_of_le (by decide),
    bytes_toNat _ _ _ _, bytes_toNat _ _ _ _, BitVec.toNat_setWidth_of_le (by decide), halves_toNat _ _, rfl⟩

/-- Bit `k` of the STATUS word (R25, R63). -/
theorem State.statusWord_getLsbD (s : State) (line : Bool) (k : Nat) : (s.statusWord line).getLsbD k =
    match k with
    | 0 => s.busy
    | 1 => s.done
    | 2 => s.errCmd
    | 3 => s.errBusy
    | 4 => s.presence
    | 5 => s.crcOk
    | 6 => s.valid
    | 7 => line
    | k + 8 => if k < 4 then s.result.code.getLsbD k else false := by
  split <;> simp only [State.statusWord, BitVec.getLsbD_append] <;> simp

/-- Settles O31: bit by bit of the STATUS word. -/
theorem statusLayout : Obligations.StatusLayout := by
  rintro s line v rfl
  have bit := s.statusWord_getLsbD line
  refine ⟨bit 0, bit 1, bit 2, bit 3, bit 4, bit 5, bit 6, bit 7, ?_, ?_⟩
  · have hcode : (s.statusWord line).extractLsb' 8 4 = s.result.code := by
      apply BitVec.eq_of_getLsbD_eq
      intro k hk
      rw [BitVec.getLsbD_extractLsb', Nat.add_comm, bit (k + 8)]
      simp [hk]
    refine hcode.trans ?_
    cases s.result <;> rfl
  · apply BitVec.eq_of_getLsbD_eq
    intro k hk
    rw [BitVec.getLsbD_extractLsb', show 12 + k = k + 4 + 8 by omega]
    simp [State.readReg, bit (k + 4 + 8)]

/-- Settles O32: the raw value as a number is 256 * SP[1] + SP[0], and sign extension keeps a signed value. -/
theorem tempIsSignedRaw : Obligations.TempIsSignedRaw := by
  intro s line
  have := s.sp[0].isLt
  have := s.sp[1].isLt
  have hraw : s.raw.toNat = 256 * s.sp[1].toNat + s.sp[0].toNat := append_toNat _ _
  show (s.raw.signExtend 32).toInt = _
  rw [BitVec.toInt_signExtend_of_le (by decide), BitVec.toInt_eq_toNat_cond, hraw]
  split <;> split <;> omega

/-! ## Writes -/

/-- Settles O33: bit 0 is clear, so the write is no soft reset. -/
theorem ctrlWriteSetsEnables : Obligations.CtrlWriteSetsEnables := by
  intro s v line hr hv
  rw [portAccess_writeOf hr, writeReg, State.writeCtrl, if_neg (by rw [hv]; decide)]
  rfl

/-- Settles O27: at the port by the CTRL write, and on a clock edge because a soft reset dominates (R198). -/
theorem softResetRestoresEverything : Obligations.SoftResetRestoresEverything := by
  intro s v line hr hv
  have hport : ∀ l, portAccess (Access.writeOf .ctrl v) l s = .next { State.reset with
      viol := s.viol || v.extractLsb' 4 28 != 0, hRdata := s.hRdata, inputs := s.inputs, draws := s.draws } := by
    intro l
    rw [portAccess_writeOf hr, writeReg, State.writeCtrl, if_pos hv]
    simp only [State.resetBlock, State.noteReserved_rstN, hr]
    rfl
  have hs : (Access.writeOf .ctrl v).isSoftReset = true := Access.isSoftReset_iff.2 ⟨rfl, regAt_offset _, hv⟩
  refine ⟨hport line, ?_⟩
  unfold clockAccess
  rw [hport]
  simp [hs]

/-- Settles O35: clearing by a mask bit is the choice between 0 and the old bit. -/
theorem statusWriteClearsSticky : Obligations.StatusWriteClearsSticky := by
  intro s v line hr
  have clear : ∀ x y : Bool, (x && !y) = if y then false else x := by decide
  rw [portAccess_writeOf hr, writeReg, State.clearSticky]
  simp only [clear]
  rfl

/-- Settles O37: such a register reserves no bit, and its write does nothing. -/
theorem readOnlyRegistersIgnoreWrites : Obligations.ReadOnlyRegistersIgnoreWrites := by
  intro s a line hw hreg
  have hnote : s.noteReserved (regAt a.addr) a.wdata = s :=
    s.noteReserved_none (by rcases hreg with e | e | e | e <;> rw [e] <;> rfl)
  rw [portAccess, if_pos hw]
  simp only [hnote]
  rcases hreg with e | e | e | e <;> rw [e] <;> exact ite_self _

theorem State.slotStep_validate {s : State} (h : s.curOp = .validate) (d : Bool) :
    s.slotStep d = completeValidate s := by
  unfold State.slotStep
  rw [State.kind_none_iff.2 (.inr h)]
  simp only [State.complete, h]

/-- Settles O34: VALIDATE reads the latched enable, which a CTRL write leaves alone. -/
theorem rangeEnableIsLatched : Obligations.RangeEnableIsLatched := by
  intro s t v line d e ho hr hv h
  rw [ctrlWriteSetsEnables s v line hr hv] at h
  obtain rfl := Host.Outcome.next.inj h
  rw [State.slotStep_validate ho, State.slotStep_validate (by exact ho)]
  exact ⟨rfl, rfl⟩

theorem bytes_append (v : Word) :
    (v.extractLsb' 24 8 ++ v.extractLsb' 16 8 ++ v.extractLsb' 8 8 ++ v.extractLsb' 0 8 : BitVec 32) = v := by
  have := v.isLt
  apply BitVec.eq_of_toNat_eq
  rw [bytes_toNat]
  simp only [BitVec.extractLsb'_toNat, Nat.shiftRight_eq_div_pow]
  omega

theorem halves_append (v : Word) : (v.extractLsb' 16 16 ++ v.extractLsb' 0 16 : BitVec 32) = v := by
  have := v.isLt
  apply BitVec.eq_of_toNat_eq
  rw [halves_toNat]
  simp only [BitVec.extractLsb'_toNat, Nat.shiftRight_eq_div_pow]
  omega

theorem lowByte_setWidth (v : Word) : (v.extractLsb' 0 8).setWidth 32 = v &&& 0x000000FF#32 := by
  have := v.isLt
  apply BitVec.eq_of_toNat_eq
  have hand : v.toNat &&& 255 = v.toNat % 256 := Nat.and_two_pow_sub_one_eq_mod _ 8
  simp only [BitVec.toNat_and, BitVec.toNat_setWidth, BitVec.extractLsb'_toNat, BitVec.toNat_ofNat]
  simp [hand]
  omega

theorem State.whenIdle_idle {s : State} (h : s.busy = false) (f : State → State) : s.whenIdle f = f s := by
  rw [State.whenIdle, if_neg (by rw [h]; decide)]

section BufferWrite
/-! A write, while no command runs, to a register that BUSY guards; `f` is the register's accepted write (R64). -/

variable {s : State} {r : Reg} {v : Word} {f : State → State} (hr : s.rstN = true) (hb : s.busy = false)
  (hf : ∀ u : State, writeReg r v u = .next (u.whenIdle f))
include hr hb hf

theorem portAccess_whenIdle (line : Bool) :
    portAccess (Access.writeOf r v) line s = .next (f (s.noteReserved r v)) := by
  rw [portAccess_writeOf hr, hf, State.whenIdle_idle (by exact hb)]

theorem portAccess_whenIdle_unreserved (hv : reservedSet r v = false) (line : Bool) :
    portAccess (Access.writeOf r v) line s = .next (f s) := by
  rw [portAccess_whenIdle hr hb hf, s.noteReserved_none hv]

end BufferWrite

/-- Settles O36: each accepted write puts the fields of the word where a read takes them from. -/
theorem bufferWritesReadBack : Obligations.BufferWritesReadBack := by
  intro s v line l hr hb
  refine ⟨⟨_, portAccess_whenIdle_unreserved (r := .sp0) hr hb (fun _ => rfl) rfl line, ?_,
      State.writeSp0_eq s v, fun j hj h4 => ?_⟩,
    ⟨_, portAccess_whenIdle_unreserved (r := .sp1) hr hb (fun _ => rfl) rfl line, ?_,
      State.writeSp1_eq s v, fun j hj h4 => ?_⟩,
    ⟨_, portAccess_whenIdle (r := .sp2) hr hb (fun _ => rfl) line, ?_, State.writeSp2_eq _ v, fun j hj h4 => ?_⟩,
    ⟨_, portAccess_whenIdle_unreserved (r := .range) hr hb (fun _ => rfl) rfl line, halves_append v, rfl⟩⟩
  · simp [State.readReg, State.writeSp0, bytes_append]
  · simp (disch := omega) only [State.writeSp0, State.clearVerdict_sp, State.setSp_sp, Vector.getElem_setIfInBounds_ne]
  · simp [State.readReg, State.writeSp1, bytes_append]
  · simp (disch := omega) only [State.writeSp1, State.clearVerdict_sp, State.setSp_sp, Vector.getElem_setIfInBounds_ne]
  · simp [State.readReg, State.writeSp2, lowByte_setWidth]
  · simp (disch := omega) only [State.writeSp2, State.clearVerdict_sp, State.setSp_sp, Vector.getElem_setIfInBounds_ne,
      State.noteReserved_sp]

/-! ## The invariant and the completion edge -/

/-- Settles O46: every state at its reset values meets the invariant. -/
theorem invariantAtReset : Obligations.InvariantAtReset := State.AtReset.inv rfl

theorem State.lowPhase_iff {s : State} : s.lowPhase = true ↔ ∃ k, s.kind = some k ∧ s.tUs < k.low := by
  unfold State.lowPhase
  cases s.kind <;> simp

/-- Settles O56: `dq_oe` is the low phase of a slot, and no slot runs in the three cases. -/
theorem lineReleasedUnlessInSlot : Obligations.LineReleasedUnlessInSlot := by
  intro s h
  refine ⟨fun hc => ?_, fun hd => State.lowPhase_iff.1 (h.drive_eq ▸ hd)⟩
  have hop : s.curOp = .idle ∨ s.curOp = .validate := by
    rcases hc with hc | hc | hc
    · exact .inl hc
    · exact .inl (congrArg State.curOp (h.held_in_reset hc)).symm
    · exact .inr hc
  have hd : s.dqOe = false := by
    rw [h.drive_eq, State.lowPhase, State.kind_none_iff.2 hop]
  exact ⟨hd, fun p => by rw [State.padLow, hd, Bool.and_false]⟩

theorem Progress.done_of_free {s t : State} (h : Progress s t) (hs : s.busy = true) (ht : t.busy = false) :
    t.done = true := by
  cases h with
  | idle _ e => rw [e] at ht; exact absurd (hs.symm.trans ht) (by simp)
  | finished _ _ hd => exact hd
  | running _ hb => exact absurd (hs.symm.trans (hb.symm.trans ht)) (by simp)

theorem Access.isSoftReset_writeOf {r : Reg} (h : r ≠ .ctrl) (v : Word) :
    (Access.writeOf r v).isSoftReset = false := by
  simp [Access.isSoftReset, Access.writeOf, h]

/-- An access on the edge that completes a command: the access is made first, and then the command completes (R198). -/
theorem clockAccess_completes {s : State} {a : Access} {line : Bool} (h : Inv s) (hr : s.rstN = true)
    (hb : s.busy = true) (hs : a.isSoftReset = false) (hc : (s.clockEdge line).busy = false) :
    ∃ u t, portAccess a (s.syncedLine line) s = .next u ∧ clockAccess a line s = .next t ∧
      ControllerFrame u t ∧ t.busy = false ∧ t.done = true := by
  obtain ⟨u, hu, ht⟩ := clockAccess_running h hr hb hs line
  have hub : u.busy = true := (congrArg State.busy (portAccess_hideHost hb hs hu)).trans hb
  have htb := (congrArg State.busy (clockAccess_hideHost h hr hb hs ht)).trans hc
  refine ⟨u, _, hu, ht, ?_, htb, (cycle_progress _ _).done_of_free hub htb⟩
  obtain ⟨h1, h2, h3, h4, h5, h6, h7, h8, h9, h10, h11, h12, h13, h14⟩ :=
    State.cycle_frame (u.shiftSync (s.dqIn line)) (s.syncedLine line)
  exact ⟨h1, h2, h3, h4, h5, h6, h7, h8, h9, h10, h11, h12, h13, h14⟩

/-- Settles O58: each access is made on the state before the edge, and the completion follows it. -/
theorem completionEdgeOrder : Obligations.CompletionEdgeOrder := by
  intro s v line h hr hb hc
  refine ⟨?_, ?_, ?_⟩
  · obtain ⟨u, t, hu, ht, _, htb, htd⟩ := clockAccess_completes (a := Access.readOf .status) h hr hb rfl hc
    refine ⟨t, ht, ?_, htb, htd⟩
    rw [clockAccess_read_hRdata hr rfl ht]
    exact (s.statusWord_getLsbD _ 0).trans hb
  · obtain ⟨u, t, hu, ht, hf, htb, htd⟩ := clockAccess_completes h hr hb
      (Access.isSoftReset_writeOf (r := .cmd) (by decide) v) hc
    refine ⟨t, ht, hf.errBusy.trans ?_, htb, htd⟩
    rw [portAccess_writeOf hr, writeReg, commandRequest, if_pos (by exact hb)] at hu
    exact Host.Outcome.next.inj hu ▸ rfl
  · obtain ⟨u, t, _, ht, _, htb, htd⟩ := clockAccess_completes h hr hb
      (Access.isSoftReset_writeOf (r := .status) (by decide) v) hc
    exact ⟨t, ht, htb, htd⟩

end Sys2Proof.Machine
end

section
/-! PROOFS of the statements of 20_memory.md: which accesses reach the block and what a step does with each kind of
input that carries one, and the commands that move whole bytes, by what each of their slots does. -/

namespace Sys2Proof.Machine

/-! ## What a step does with an access -/

/-- An input that carries an access performs it behind the guard of R62. -/
theorem deliver_access {i : Input} {a : Access} (ha : i.access? = some a) (s : State) :
    ∃ f : State → Outcome, (∀ u, ∃ t, f u = .next t) ∧ deliver i s = guardAccess a f s := by
  cases i with
  | access b line => cases ha; exact ⟨_, portAccess_next a _, rfl⟩
  | clockAccess b line => cases ha; exact ⟨_, clockAccess_next a line, rfl⟩
  | mem m line =>
    have hm : m.toAccess = some a := ha
    exact ⟨_, portAccess_next a (s.drawnLine line), by simp only [deliver, hm]⟩
  | slot _ | clock _ | rst _ => cases ha

theorem deliver_no_access {i : Input} (ha : i.access? = none) (s : State) : ∃ t, deliver i s = .next t := by
  cases i with
  | access _ _ | clockAccess _ _ => cases ha
  | mem m line =>
    have hm : m.toAccess = none := ha
    exact ⟨s.consume, by simp only [deliver, hm]⟩
  | slot _ | clock _ | rst _ => exact ⟨_, rfl⟩

/-- An access that R62 does not define: the ghost flag first, then the refusal (log entry 5). -/
theorem step_undefined {s : State} {i : Input} {rest : List Input} {a : Access} (hi : s.inputs = i :: rest)
    (ha : i.access? = some a) (hd : a.isDefined = false) :
    step s = if s.viol then .refused .subwordAccess else .next { s with viol := true } := by
  obtain ⟨f, -, hf⟩ := deliver_access ha s
  rw [step_cons hi, hf, guardAccess, if_neg (by simp [hd])]

theorem step_defined_next {s : State} {i : Input} {rest : List Input} {a : Access} (hi : s.inputs = i :: rest)
    (ha : i.access? = some a) (hd : a.isDefined = true) : ∃ t, step s = .next t := by
  obtain ⟨f, hnext, hf⟩ := deliver_access ha s
  rw [step_cons hi, hf, guardAccess_defined hd]
  exact hnext _

theorem step_mem {s : State} {m : MemOp} {a : Access} {line : Bool} {rest : List Input} (hd : a.isDefined = true)
    (hm : m.toAccess = some a) (h : s.inputs = .mem m line :: rest) :
    step s = portAccess a (s.drawnLine line) { s with inputs := rest } := by
  simp only [step_cons h, deliver, hm, guardAccess_defined hd, State.consume_cons h]

theorem step_mem_outside {s : State} {m : MemOp} {line : Bool} {rest : List Input} (hm : m.toAccess = none)
    (h : s.inputs = .mem m line :: rest) : step s = .next { s with inputs := rest } := by
  simp only [step_cons h, deliver, hm, State.consume_cons h]

/-! ## The window and the access size -/

theorem sizeCode_ne {n : Nat} (h : n ≠ 4) : sizeCode n ≠ 0b10#2 := by
  unfold sizeCode
  split
  case h_3 => exact absurd rfl h
  all_goals decide

theorem Access.isDefined_aligned {a : Access} (hs : a.size = 0b10#2) (ha : a.addr.toNat % 4 = 0) :
    a.isDefined = true := by
  have low : a.addr.extractLsb' 0 2 = 0#2 := BitVec.eq_of_toNat_eq (by simpa [BitVec.extractLsb'_toNat] using ha)
  simp [Access.isDefined, hs, low]

/-- The port offset of an access by address is the offset in the window (R60). -/
theorem offset_toNat {off : Nat} (h : off ≤ 0x3F) : (BitVec.ofNat 6 off).toNat = off :=
  Nat.mod_eq_of_lt (by omega)

/-- Settles O41: by address and at the port, the step performs the same access. -/
theorem windowSelection : Obligations.WindowSelection := by
  intro s line rest w
  refine ⟨fun off h h4 hi => ?_, fun addr n ho hi => step_mem_outside (MemOp.toAccess_out ho) hi⟩
  have hd : Access.isDefined ⟨w.isSome, BitVec.ofNat 6 off, 0b10#2, w.getD 0#32⟩ = true :=
    Access.isDefined_aligned rfl (by rw [offset_toNat h, h4])
  rw [step_mem hd (MemOp.toAccess_in h 4 w) hi, step_access hd rfl]
  rfl

/-- Settles O42: in each of its three forms the input carries an access that the guard turns away. -/
theorem subwordAccessIsRefused : Obligations.SubwordAccessIsRefused := by
  intro s a off n w line rest h
  obtain ⟨i, b, hi, hb, hd⟩ : ∃ i b, s.inputs = i :: rest ∧ i.access? = some b ∧ b.isDefined = false := by
    rcases h with ⟨hi | hi, hu⟩ | ⟨hi, ho, hu⟩
    · exact ⟨_, a, hi, rfl, Access.isDefined_false hu⟩
    · exact ⟨_, a, hi, rfl, Access.isDefined_false hu⟩
    · rw [← offset_toNat ho] at hu
      exact ⟨_, _, hi, MemOp.toAccess_in ho n w, Access.isDefined_false (hu.imp_left sizeCode_ne)⟩
  rw [step_undefined hi hb hd]
  exact ⟨fun hv => if_neg (by simp [hv]), fun hv => if_pos hv⟩

/-- Settles O44: only the guard of an access refuses, and it does so with the ghost flag set. -/
theorem nothingElseStops : Obligations.NothingElseStops := by
  intro s
  cases hi : s.inputs with
  | nil => exact .inl ⟨s.controllerAlone, by rw [step, hi]⟩
  | cons i rest =>
    cases ha : i.access? with
    | none => exact .inl (step_cons hi ▸ deliver_no_access ha s)
    | some a =>
      cases hd : a.isDefined with
      | true => exact .inl (step_defined_next hi ha hd)
      | false =>
        rw [step_undefined hi ha hd]
        cases hv : s.viol with
        | false => exact .inl ⟨_, rfl⟩
        | true => exact .inr ⟨rfl, rfl, i, rest, a, rfl, ha, hd⟩

/-! ## The order on a clock edge, and the command request -/

/-- While a command runs, an access that is no soft reset leaves what the engine's next edge reads (R117, R198). -/
theorem clockEdge_after_access {s u : State} {a : Access} {l line : Bool} (hr : s.rstN = true) (hb : s.busy = true)
    (hs : a.isSoftReset = false) (hu : portAccess a l s = .next u) :
    u.clockEdge line = State.cycle (s.syncedLine line) (u.shiftSync (s.dqIn line)) := by
  have hh := portAccess_hideHost hb hs hu
  have hsync : u.syncedLine line = s.syncedLine line := (congrArg (State.syncedLine · line) hh :)
  have hdq : u.dqIn line = s.dqIn line := (congrArg (State.dqIn · line) hh :)
  rw [State.clockEdge_run ((portAccess_rstN hu).trans hr), hsync, hdq]

/-- Settles O60, by one equation of the step for each kind of input and the cases of R198. -/
theorem stepPerformsHostAccess : Obligations.StepPerformsHostAccess := by
  intro s a line rest hd
  refine ⟨step_access hd, fun m => step_mem hd, fun h hi => ?_⟩
  obtain ⟨t, ht⟩ := clockAccess_next a line { s with inputs := rest }
  obtain ⟨u, hu, hc⟩ := clockAccess_cases ht
  refine ⟨u, hu, (step_clockAccess hd hi).trans (ht.trans (congrArg _ ?_))⟩
  rcases hc with ⟨hr, rfl⟩ | ⟨hs, _, rfl⟩ | ⟨hr, hs, ho, rfl⟩ | ⟨hr, hs, ho, rfl⟩
  · rw [if_pos (.inl hr)]
  · rw [if_pos (.inr hs)]
  · rw [if_neg (by simp [show s.rstN = true from hr, hs]), if_neg fun hb => h.busy_iff.1 hb ho]
    rfl
  · have hb := h.busy_iff.2 ho
    rw [if_neg (by simp [show s.rstN = true from hr, hs]), if_pos hb]
    exact (clockEdge_after_access hr hb hs hu).symm

/-- On a clock edge with no command running, the access is made and the synchronizer shifts: a command that the access
starts does not move on this edge (R95, R111). -/
theorem clockAccess_idle {s u : State} {a : Access} {line : Bool} (hr : s.rstN = true) (hs : a.isSoftReset = false)
    (ho : s.curOp = .idle) (hu : portAccess a (s.syncedLine line) s = .next u) :
    clockAccess a line s = .next (u.shiftSync (s.dqIn line)) := by
  unfold clockAccess
  rw [hu]
  simp [hr, hs, ho]

/-- Settles O7: each of the three inputs performs the CMD write, and that write runs the command. -/
theorem stepRunsDecodedCommand : Obligations.StepRunsDecodedCommand := by
  intro s v line rest i hr hd
  have hdef := Access.isDefined_writeOf .cmd v
  have hrun := request_cmd (s := { s with inputs := rest }) hr hd
  refine ⟨fun hi => (step_access hdef hi).trans (hrun _), fun hi => ?_, fun hi ho => ?_⟩
  · exact (step_mem hdef (MemOp.toAccess_in (by decide) 4 (some v)) hi).trans (hrun _)
  · obtain ⟨t, ht⟩ := exec_next i { s with inputs := rest, viol := s.viol || cmdReservedSet v }
    exact ⟨t, ht, (step_clockAccess hdef hi).trans
      (clockAccess_idle hr (Access.isSoftReset_writeOf (by decide) v) ho ((hrun _).trans ht))⟩

theorem decode_of_decodeTableWord {w : Nat} {i : Instr} (h : decodeTableWord 32 w = some i) :
    decode (BitVec.ofNat 32 (w % 2 ^ 32)) = .ok i := by
  unfold decodeTableWord at h
  split at h
  next j hj => cases h; exact hj
  next => cases h

/-- Settles O8: the placed word is the next pending CMD write. -/
theorem placedWordRuns : Obligations.PlacedWordRuns := by
  intro s w i h
  have hw : BitVec.ofNat 32 (w % 2 ^ 32) = BitVec.ofNat 32 w := BitVec.eq_of_toNat_eq (by simp)
  obtain ⟨hport, _, _⟩ := stepRunsDecodedCommand (s.withFetchWord 32 w) _ true s.inputs i rfl
    (decode_of_decodeTableWord h)
  rw [hport rfl, hw]
  rfl

/-! ## The commands that move whole bytes -/

/-- Acceptance (R95) as one record: a bus command starts to drive the line in the same cycle. -/
theorem State.accept_eq (s : State) (op : Op) (data : Byte) : s.accept op data = { s with
      curOp := op, curData := data, rangeEnL := s.rangeEn, slotIdx := 0, tUs := 0, pre := 0, vCnt := 0, sr := 0,
      dqOe := (op != .idle && op != .validate), busy := true, done := false } := by
  rw [← State.accept_dqOe s op data]
  rfl

theorem State.kind_ne_none_of_writeByte {u : State} (h : u.curOp = .writeByte) : u.kind ≠ none := by
  simp [State.kind_none_iff, h]

theorem State.slotStep_writeByte_mid {u : State} (d : Bool) (hop : u.curOp = .writeByte) (ht : u.tUs = 0)
    (hp : u.pre = 0) (hd : u.dqOe = true) (hn : u.slotIdx + 1 ≠ 8) :
    u.slotStep d = { u with slotIdx := u.slotIdx + 1 } := by
  rw [State.slotStep_mid d (State.kind_ne_none_of_writeByte hop) (by rw [hop]; exact hn),
    State.takeSample_write d (.inl hop)]
  have hlow := State.lowPhase_start (State.kind_ne_none_of_writeByte (u := (u.setPre 0).nextSlot) hop) rfl
  calc (u.setPre 0).nextSlot.drive
      = { u with slotIdx := u.slotIdx + 1, tUs := 0, pre := 0, dqOe := true } := by rw [State.drive, hlow]; rfl
    _ = { u with slotIdx := u.slotIdx + 1, tUs := u.tUs, pre := u.pre, dqOe := u.dqOe } := by rw [ht, hp, hd]

/-- WRITE_BYTE after fewer than eight slots: only the slot number has moved (R140). -/
theorem writeByte_course (s : State) (b : Byte) (ds : List Bool) (hl : ds.length < 8) :
    (s.accept .writeByte b).slotSteps ds = { s.accept .writeByte b with slotIdx := ds.length } := by
  induction ds using List.reverseRecOn with
  | nil => rfl
  | append_singleton ds d ih =>
    rw [List.length_append, List.length_singleton] at hl ⊢
    rw [State.slotSteps_append, ih (by omega)]
    exact State.slotStep_writeByte_mid d rfl rfl rfl (State.accept_dqOe s .writeByte b)
      (show ds.length + 1 ≠ 8 by omega)

theorem State.slotStep_writeByte_last {u : State} (d : Bool) (hop : u.curOp = .writeByte) (hn : u.slotIdx + 1 = 8) :
    u.slotStep d = State.finish { u with pre := 0 } := by
  rw [State.slotStep_last d (State.kind_ne_none_of_writeByte hop) (by rw [hop]; exact hn),
    State.takeSample_write d (.inl hop), State.complete, show (u.setPre 0).nextSlot.curOp = .writeByte from hop]
  rfl

/-- Settles O13: seven slots only count, and the eighth completes the command. -/
theorem writeByteSendsEightSlots : Obligations.WriteByteSendsEightSlots := by
  intro s b hb
  refine ⟨s.accept .writeByte b, congrArg _ (State.request_idle hb), State.accept_eq s .writeByte b,
    fun ds hl => ⟨writeByte_course s b ds hl, by rw [writeByte_course s b ds hl]; rfl⟩, fun ds hl => ?_⟩
  cases ds using List.reverseRecOn with
  | nil => cases hl
  | append_singleton ds d =>
    have h7 : ds.length = 7 := by simpa using hl
    rw [State.slotSteps_append, writeByte_course s b ds (by omega), State.slotStep_writeByte_last d rfl (by rw [h7])]
    rfl

/-- The bits of a byte that has taken in one sample more. -/
theorem getLsbD_setBit_snoc {r : Byte} {ds : List Bool} (d : Bool) (hl : ds.length < 8)
    (hr : ∀ k, k < ds.length → r.getLsbD k = ds.getD k false) (k : Nat) (hk : k < ds.length + 1) :
    (setBit r ds.length d).getLsbD k = (ds ++ [d]).getD k false := by
  rw [getLsbD_setBit _ _ _ _ hl]
  split
  next h => subst k; simp
  next h => rw [hr k (by omega), List.getD_append _ _ _ _ (by omega)]

/-- The last slot of READ_BYTE (R145): its sample goes to its bit of `sr`, and RXDATA becomes `sr` (R116). -/
theorem State.slotStep_readByte_last {u : State} (d : Bool) (hop : u.curOp = .readByte) (ht : u.tUs = 0)
    (hn : u.slotIdx + 1 = 8) :
    u.slotStep d = completeReadByte { u with sr := setBit u.sr u.slotIdx d, pre := 0 } := by
  have hop' : ((u.capture d).setPre 0).nextSlot.curOp = .readByte := (State.capture_curOp u d).trans hop
  rw [State.slotStep_read_last d (by simp [State.kind, hop, Op.slotKind]) ht (by rw [hop]; exact hn),
    State.complete, hop', State.capture, hop]
  rfl

/-- Settles O14: `sr` gathers the samples, and the eighth slot publishes it. -/
theorem readByteAssemblesSamples : Obligations.ReadByteAssemblesSamples := by
  intro s ign hb
  refine ⟨s.accept .readByte ign, congrArg _ (State.request_idle hb), State.accept_eq s .readByte ign,
    fun ds hl => ?_, fun ds hl => ?_⟩
  · obtain ⟨r, _, e⟩ := readByte_course s ign ds hl
    rw [e]
    exact ⟨rfl, rfl⟩
  · cases ds using List.reverseRecOn with
    | nil => cases hl
    | append_singleton ds d =>
      have h7 : ds.length = 7 := by simpa using hl
      obtain ⟨r, hr, e⟩ := readByte_course s ign ds (by omega)
      refine ⟨setBit r ds.length d, fun k hk => getLsbD_setBit_snoc d (by omega) hr k (by omega), ?_⟩
      rw [State.slotSteps_append, e, State.slotStep_readByte_last d rfl rfl (by rw [h7])]
      rfl

/-- The last slot of READ_SP (R150): its sample completes SP[8], and RXDATA becomes SP[8] (R116). -/
theorem State.slotStep_readSp_last {u : State} (d : Bool) (hop : u.curOp = .readSp) (ht : u.tUs = 0)
    (hn : u.slotIdx = 71) :
    u.slotStep d = completeReadSp { u with sr := 0, sp := u.sp.setIfInBounds 8 (setBit u.sr 7 d), pre := 0 } := by
  have hop' : ((u.capture d).setPre 0).nextSlot.curOp = .readSp := (State.capture_curOp u d).trans hop
  rw [State.slotStep_read_last d (by simp [State.kind, hop, Op.slotKind]) ht (by rw [hop, hn]; rfl),
    State.complete, hop', State.capture, hop]
  simp only [captureReadSp_last d (show u.slotIdx % 8 = 7 by rw [hn]), hn]
  rfl

/-- Settles O15: the buffer fills as `SpAfter` says, and the 72nd slot completes its last byte and the command. -/
theorem readSpFillsBuffer : Obligations.ReadSpFillsBuffer := by
  intro s ign hb
  have hexec : exec (.readSp ign) s = .next (s.accept .readSp ign).clearVerdict := by
    simp [exec, execReadSp, hb]
  refine ⟨_, hexec, congrArg State.clearVerdict (State.accept_eq s .readSp ign), fun ds hl => ?_, fun ds hl => ?_⟩
  · obtain ⟨sp, r, h, e⟩ := readSp_course s _ rfl ds hl
    rw [e]
    refine ⟨rfl, rfl, fun j hj => ?_⟩
    split
    next hle => exact h.done j hj hle
    next hlt => exact h.todo j hj (by omega)
  · cases ds using List.reverseRecOn with
    | nil => cases hl
    | append_singleton ds d =>
      have h71 : ds.length = 71 := by simpa using hl
      obtain ⟨sp, r, h, e⟩ := readSp_course s _ rfl ds (by omega)
      obtain ⟨hdone, -, -, -⟩ := (h.snoc d).2 (by omega)
      rw [h71] at hdone
      refine ⟨sp.setIfInBounds 8 (setBit r 7 d), fun j hj => hdone j hj (by omega), ?_⟩
      rw [State.slotSteps_append, e, State.slotStep_readSp_last d rfl rfl h71]
      rfl

end Sys2Proof.Machine
end

section
/-! PROOFS of the statements of 30_encoding.md: the CMD word and the assembler, what an illegal opcode and a request
while busy do, the commands of one slot, VALIDATE, and the DATA bits a command ignores. -/

namespace Sys2Proof.Machine

/-! ## The CMD word -/

/-- A command is read from a word exactly when the word holds its opcode and its DATA byte (R91, R94). -/
theorem decode_eq_ok_iff {v : Word} {i : Instr} :
    decode v = .ok i ↔ opField v = i.opcode ∧ dataField v = i.data := by
  constructor
  · intro h
    rcases decode_cases v with ⟨he, _⟩ | ⟨j, hj, hop, hdata, _⟩
    · cases he.symm.trans h
    · cases hj.symm.trans h
      exact ⟨hop.symm, hdata.symm⟩
  · rintro ⟨hop, hdata⟩
    rw [decode, hop, hdata]
    cases i with
    | writeBit b ign =>
      show Except.ok (Instr.writeBit _ _) = _
      rw [Instr.data, bit_append, ign_append]
    | _ => rfl

/-- The encoding of a command is any word with its two fields, the reserved bits cleared (R91). -/
theorem encode_eq_of_fields {v : Word} {i : Instr} (hop : opField v = i.opcode) (hdata : dataField v = i.data) :
    encode i = v &&& 0x0000FF0F#32 := by
  rw [← word_fields v, hop, hdata, encode]

theorem cmdReservedSet_masked (v : Word) : cmdReservedSet (v &&& 0x0000FF0F#32) = false := by
  simp [cmdReservedSet, BitVec.extractLsb'_and]

/-- Settles O1: the word holds the command's fields, and an encoding is a masked word. -/
theorem decodeOfEncode : Obligations.DecodeOfEncode := by
  intro i
  have hmask : encode i = encode i &&& 0x0000FF0F#32 := encode_eq_of_fields (opField_encode i) (dataField_encode i)
  refine ⟨decode_eq_ok_iff.2 ⟨opField_encode i, dataField_encode i⟩, ?_⟩
  rw [hmask]
  exact cmdReservedSet_masked _

/-- Settles O2: the word's fields are those of the command it decodes to. -/
theorem encodeOfDecode : Obligations.EncodeOfDecode := by
  intro v i h
  obtain ⟨hop, hdata⟩ := decode_eq_ok_iff.1 h
  exact encode_eq_of_fields hop hdata

/-- Settles O3: the two answers of the decoder go with two disjoint ranges of the opcode. -/
theorem illegalOpcodesRejected : Obligations.IllegalOpcodesRejected := by
  intro v
  rcases decode_cases v with ⟨h, hop⟩ | ⟨i, h, -, -, h1, h7⟩
  · refine ⟨⟨?_, fun hlegal => by omega⟩, fun e => ⟨?_, fun ⟨he, _⟩ => he ▸ h⟩⟩
    · rintro ⟨i, hi⟩
      cases h.symm.trans hi
    · intro he
      cases h.symm.trans he
      exact ⟨rfl, hop⟩
  · refine ⟨⟨fun _ => ⟨h1, h7⟩, fun _ => ⟨i, h⟩⟩, fun e => ⟨?_, fun ⟨_, hop⟩ => by omega⟩⟩
    intro he
    cases h.symm.trans he

theorem decode_masked (v : Word) : decode (v &&& 0x0000FF0F#32) = decode v := by
  rw [← word_fields v, decode, opField_word, dataField_word, decode]

/-- Settles O4: decoding sees the masked word. -/
theorem reservedBitsTakeNoPart : Obligations.ReservedBitsTakeNoPart := by
  intro v w h
  rw [← decode_masked v, h, decode_masked]

/-! ## The assembler -/

/-- Settles O5: the assembler and the decoder compute on fixed lines and words. -/
theorem encodingExamples : Obligations.EncodingExamples := by
  unfold Obligations.EncodingExamples
  decide

/-- The word of `ow.wbyte b` as the assembler builds it, by a shift and an or (R100). -/
theorem wbyte_word {b : Nat} (hb : b ≤ 255) :
    0x00000004#32 ||| (BitVec.ofNat 32 b <<< 8) = encode (.writeByte (BitVec.ofNat 8 b)) := by
  apply BitVec.eq_of_toNat_eq
  have hfields : b <<< 8 ||| 4 = b * 256 + 4 := by
    rw [← Nat.shiftLeft_add_eq_or_of_lt (by decide) b, Nat.shiftLeft_eq]
  have hbyte : (BitVec.ofNat 8 b).toNat = b := Nat.mod_eq_of_lt (by omega)
  have hword : (BitVec.ofNat 32 b <<< 8).toNat = b <<< 8 := by
    rw [BitVec.toNat_shiftLeft, BitVec.toNat_ofNat, Nat.shiftLeft_eq, Nat.shiftLeft_eq]
    omega
  rw [encode_toNat, BitVec.toNat_or, hword, Nat.or_comm, Instr.data, hbyte]
  exact hfields

/-- Settles O6: `ow.wbit` by its two operands, `ow.wbyte` by its word. -/
theorem assemblerWritesEncodings : Obligations.AssemblerWritesEncodings := by
  refine ⟨rfl, rfl, rfl, rfl, rfl, fun v => ?_, fun b => ?_⟩
  · match v with
    | 0 => rfl
    | 1 => rfl
    | v + 2 => simp [AsmLine.assemble, AsmLine.wellFormed]
  · by_cases hb : b ≤ 255
    · simp [AsmLine.assemble, AsmLine.wellFormed, AsmLine.expand, hb, wbyte_word hb]
    · simp [AsmLine.assemble, AsmLine.wellFormed, hb]

/-! ## Requests that are turned away -/

/-- Settles O39: BUSY is checked before the opcode (R197 a). -/
theorem illegalOpcodeRaisesErrCmd : Obligations.IllegalOpcodeRaisesErrCmd := by
  intro s v line hr hop
  have herr : decode v = .error (.illegalOpcode (opField v)) := ((illegalOpcodesRejected v).2 _).2 ⟨rfl, hop⟩
  rw [portAccess_writeOf hr, writeReg, commandRequest, State.noteReserved_busy, herr]
  exact ⟨fun hb => if_neg (by simp [hb]), fun hb => if_pos hb⟩

/-- Settles O40: of all a command request can do, only ERR_BUSY is left. -/
theorem busyCommandIsTurnedAway : Obligations.BusyCommandIsTurnedAway := by
  intro i s hb
  obtain ⟨t, ht⟩ := exec_next i s
  rcases exec_cases ht with ⟨_, rfl⟩ | ⟨hfree, _⟩ | ⟨hfree, _⟩
  · exact ht
  · cases hb.symm.trans hfree
  · cases hb.symm.trans hfree

/-! ## The commands of one slot, and VALIDATE -/

/-- The slot of RESET (R120). -/
theorem State.slotStep_reset {u : State} (d : Bool) (hop : u.curOp = .reset) (ht : u.tUs = 0) (hn : u.slotIdx = 0) :
    u.slotStep d = completeReset { u with presenceL := !d, pre := 0 } := by
  have hk : u.kind = some .rst := by simp only [State.kind, hop, Op.slotKind]
  have hop' : ((u.capture d).setPre 0).nextSlot.curOp = .reset := (State.capture_curOp u d).trans hop
  rw [State.slotStep_last d (by simp [hk]) (by rw [hop, hn]; rfl),
    State.takeSample_fresh d hk (by decide) ht, State.complete, hop', State.capture, hop]
  rfl

/-- Settles O10: acceptance, and the one slot. -/
theorem resetHandshake : Obligations.ResetHandshake := fun s ign hb =>
  ⟨s.accept .reset ign, congrArg _ (State.request_idle hb), State.accept_eq s .reset ign, rfl,
    fun d => State.slotStep_reset d rfl rfl rfl⟩

/-- The slot of WRITE_BIT (R125): its draw is not used. -/
theorem State.slotStep_writeBit {u : State} (d : Bool) (hop : u.curOp = .writeBit) (hn : u.slotIdx = 0) :
    u.slotStep d = State.finish { u with pre := 0 } := by
  rw [State.slotStep_last d (by simp [State.kind_none_iff, hop]) (by rw [hop, hn]; rfl),
    State.takeSample_write d (.inr hop), State.complete, show (u.setPre 0).nextSlot.curOp = .writeBit from hop]
  rfl

/-- Settles O11: bit 0 of the latched DATA is `v` (R126), and it selects the slot. -/
theorem writeBitSendsOneSlot : Obligations.WriteBitSendsOneSlot := by
  intro s v ign hb
  refine ⟨s.accept .writeBit (ign ++ BitVec.ofBool v), congrArg _ (State.request_idle hb),
    State.accept_eq s .writeBit _, ?_, fun d => State.slotStep_writeBit d rfl rfl⟩
  show some (writeSlot ((ign ++ BitVec.ofBool v : Byte).getLsbD 0)) = some (writeSlot v)
  rw [bit_append]

/-- The slot of READ_BIT (R130). -/
theorem State.slotStep_readBit {u : State} (d : Bool) (hop : u.curOp = .readBit) (ht : u.tUs = 0)
    (hn : u.slotIdx = 0) :
    u.slotStep d = completeReadBit { u with sr := setBit u.sr 0 d, pre := 0 } := by
  have hop' : ((u.capture d).setPre 0).nextSlot.curOp = .readBit := (State.capture_curOp u d).trans hop
  rw [State.slotStep_read_last d (by simp [State.kind, hop, Op.slotKind]) ht (by rw [hop, hn]; rfl),
    State.complete, hop', State.capture, hop]
  rfl

/-- Settles O12: acceptance clears `sr`, the sample is its only bit, and RXDATA is that bit. -/
theorem readBitReturnsSample : Obligations.ReadBitReturnsSample := by
  intro s ign hb
  refine ⟨s.accept .readBit ign, congrArg _ (State.request_idle hb), State.accept_eq s .readBit ign, rfl, fun d => ?_⟩
  rw [State.slotStep_readBit d rfl rfl rfl, show setBit (s.accept .readBit ign).sr 0 d = _ from setBit_zero_zero d,
    completeReadBit, ext_first]
  rfl

/-- Settles O16: VALIDATE is one step, and its verdict takes the checks in the order of R171. -/
theorem validateReportsFirstFailure : Obligations.ValidateReportsFirstFailure := by
  intro s ign hb
  refine ⟨s.accept .validate ign, congrArg _ (State.request_idle hb), State.accept_eq s .validate ign, ?_⟩
  rintro d c raw r rfl rfl rfl
  rw [State.slotStep_validate rfl]
  rfl

/-! ## The DATA bits a command ignores -/

/-- `cur_data` takes another value. -/
def State.setData (e : Byte) (s : State) : State := { s with curData := e }

/-- The DATA byte `e` selects the same slots of the running command as `cur_data` does (R113). -/
def State.SameSlots (e : Byte) (s : State) : Prop := ∀ k, s.curOp.slotKind e k = s.curOp.slotKind s.curData k

theorem State.SameSlots.kind_setData {e : Byte} {s : State} (h : s.SameSlots e) : (s.setData e).kind = s.kind :=
  h s.slotIdx

theorem State.SameSlots.drive_setData {e : Byte} {s : State} (h : s.SameSlots e) :
    (s.setData e).drive = s.drive.setData e := by
  unfold State.drive State.lowPhase
  rw [h.kind_setData]
  rfl

theorem State.capture_setData (e : Byte) (s : State) (d : Bool) :
    (s.setData e).capture d = (s.capture d).setData e := by
  unfold State.capture
  rw [show (s.setData e).curOp = s.curOp from rfl]
  cases s.curOp with
  | readSp =>
    dsimp only [captureReadSp]
    rw [show (s.setData e).slotIdx = s.slotIdx from rfl]
    split <;> rfl
  | _ => rfl

theorem State.complete_setData (e : Byte) (s : State) : (s.setData e).complete = s.complete.setData e := by
  unfold State.complete
  rw [show (s.setData e).curOp = s.curOp from rfl]
  cases s.curOp <;> rfl

theorem State.SameSlots.takeSample_setData {e : Byte} {s : State} (h : s.SameSlots e) (d : Bool) :
    (s.setData e).takeSample d = (s.takeSample d).setData e := by
  have hpending : (s.setData e).samplePending = s.samplePending := by
    unfold State.samplePending
    rw [h.kind_setData]
    rfl
  unfold State.takeSample
  rw [hpending]
  split
  · exact State.capture_setData e s d
  · rfl

theorem State.SameSlots.endSlot_setData {e : Byte} {s : State} (h : s.SameSlots e) :
    (s.setData e).endSlot = s.endSlot.setData e := by
  unfold State.endSlot
  rw [show (s.setData e).slotIdx = s.slotIdx from rfl, show (s.setData e).curOp = s.curOp from rfl]
  split
  · exact State.complete_setData e s.nextSlot
  · exact State.SameSlots.drive_setData (s := s.nextSlot) h

/-- A controller step reads `cur_data` for the slot's kind only. -/
theorem State.SameSlots.slotStep_setData {e : Byte} {s : State} (h : s.SameSlots e) (d : Bool) :
    (s.setData e).slotStep d = (s.slotStep d).setData e := by
  have hsample : ((s.takeSample d).setPre 0).SameSlots e := by simpa [State.SameSlots] using h
  unfold State.slotStep
  rw [h.kind_setData]
  split
  · rw [h.takeSample_setData]
    exact hsample.endSlot_setData
  · exact State.complete_setData e s

theorem State.slotStep_curData (s : State) (d : Bool) : (s.slotStep d).curData = s.curData := by
  unfold State.slotStep
  split <;> simp

/-- A controller step goes on with the same command or frees the controller. -/
theorem State.SameSlots.slotStep {e : Byte} {s : State} (h : s.SameSlots e) (d : Bool) :
    (s.slotStep d).SameSlots e := by
  intro k
  rw [State.slotStep_curData]
  cases slotStep_progress s d with
  | idle _ ht => rw [ht]; exact h k
  | finished _ _ _ hc => rw [hc]; rfl
  | running _ _ _ hc => rw [hc]; exact h k

theorem State.SameSlots.slotSteps_setData {e : Byte} {s : State} (h : s.SameSlots e) (ds : List Bool) :
    (s.setData e).slotSteps ds = (s.slotSteps ds).setData e := by
  induction ds generalizing s with
  | nil => rfl
  | cons d ds ih =>
    show ((s.setData e).slotStep d).slotSteps ds = ((s.slotStep d).slotSteps ds).setData e
    rw [h.slotStep_setData, ih (h.slotStep d)]

/-- The ignored bits select no slot (R93, R126). -/
theorem slotKind_canonical (i : Instr) (k : Nat) :
    (opOf i).slotKind (canonical i).data k = (opOf i).slotKind i.data k := by
  cases i with
  | writeBit v ign => simp only [canonical, opOf, Op.slotKind, Instr.data, bit_append]
  | _ => rfl

/-- Acceptance uses DATA for the latch alone: the first slot drives the line low whatever its kind is. -/
theorem State.accept_setData (s : State) (op : Op) (data e : Byte) :
    (s.accept op data).setData e = s.accept op e := by
  rw [State.accept_eq, State.accept_eq]
  rfl

/-- What a command request does while idle (R95): acceptance, and READ_SP clears the verdict too (R150). -/
theorem exec_idle {s : State} (hb : s.busy = false) (i : Instr) :
    exec i s = .next (if opOf i = .readSp then (s.accept (opOf i) i.data).clearVerdict
      else s.accept (opOf i) i.data) := by
  obtain ⟨t, ht⟩ := exec_next i s
  rcases exec_cases ht with ⟨hbusy, _⟩ | ⟨_, rfl, hop⟩ | ⟨_, rfl, hop⟩
  · cases hb.symm.trans hbusy
  · rw [ht, if_neg hop]
  · rw [ht, hop, if_pos rfl]

/-- A command accepted with its ignored bits cleared differs in the latch, and runs the same slots. -/
theorem exec_canonical {i : Instr} {s t : State} (hb : s.busy = false) (h : exec i s = .next t) :
    exec (canonical i) s = .next (t.setData (canonical i).data) ∧ t.SameSlots (canonical i).data := by
  have hop : opOf (canonical i) = opOf i := by cases i <;> rfl
  have hdata := State.accept_setData s (opOf i) i.data (canonical i).data
  rw [exec_idle hb] at h ⊢
  obtain rfl := Host.Outcome.next.inj h
  rw [hop, ← hdata]
  split <;> exact ⟨rfl, slotKind_canonical i⟩

/-- Settles O21: the two runs differ in the latch at acceptance, and no controller step makes them differ further. -/
theorem ignoredDataHasNoEffect : Obligations.IgnoredDataHasNoEffect := by
  intro i s t t' ds hb h h'
  obtain ⟨hexec, hslots⟩ := exec_canonical hb h
  obtain rfl := Host.Outcome.next.inj (hexec.symm.trans h')
  rw [hslots.slotSteps_setData]
  rfl

end Sys2Proof.Machine
end

section
/-! PROOFS of the statements of 40_bus_primitives.md: the slots of WRITE_BYTE, host accesses while a command runs, the
clock edges of a slot and of a whole command, and that a running command completes without an input. -/

namespace Sys2Proof.Machine

/-! ## The slots of WRITE_BYTE -/

/-- WRITE_BYTE's slot `k` carries bit `k` of its byte (R140). -/
theorem kind_writeByte_course (s : State) (b : Byte) (ds : List Bool) (hl : ds.length < 8) :
    ((s.accept .writeByte b).slotSteps ds).kind = some (writeSlot (b.getLsbD ds.length)) := by
  rw [writeByte_course s b ds hl]
  rfl

/-- The slot of WRITE_BIT carries its bit (R125). -/
theorem kind_accept_writeBit (s : State) (v : Bool) (ign : BitVec 7) :
    (s.accept .writeBit (ign ++ BitVec.ofBool v)).kind = some (writeSlot v) :=
  congrArg (fun v => some (writeSlot v)) (bit_append ign v)

/-- Settles O20: both run the write slot of the same bit. -/
theorem writeByteIsEightWriteBits : Obligations.WriteByteIsEightWriteBits := by
  intro s s' t t' b ign ds hb hb' hl h h'
  obtain rfl := Host.Outcome.next.inj ((exec_idle hb _).symm.trans h)
  obtain rfl := Host.Outcome.next.inj ((exec_idle hb' _).symm.trans h')
  have hbyte := kind_writeByte_course s b ds hl
  have hbit := kind_accept_writeBit s' (b.getLsbD ds.length) ign
  exact ⟨hbyte.trans hbit.symm, fun hnone => by cases hbit.symm.trans hnone⟩

/-! ## Host accesses while a command runs -/

/-- A clock edge reads none of the fields a host access may change while a command runs (R117). -/
theorem State.hideHost_clockEdge (s : State) (line : Bool) :
    (s.hideHost.clockEdge line).hideHost = (s.clockEdge line).hideHost := by
  unfold State.clockEdge
  rw [show s.hideHost.rstN = s.rstN from rfl]
  split
  · exact State.hideHost_cycle (s.shiftSync (s.dqIn line)) (s.syncedLine line)
  · rfl

/-- A clock edge with an access while a command runs is the access and then a clock edge without one (R198). -/
theorem clockAccess_eq_clockEdge {s t : State} {a : Access} {line : Bool} (hb : s.busy = true)
    (hs : a.isSoftReset = false) (h : clockAccess a line s = .next t) :
    ∃ u, portAccess a (s.syncedLine line) s = .next u ∧ t = u.clockEdge line := by
  obtain ⟨u, hu, hc⟩ := clockAccess_cases h
  refine ⟨u, hu, ?_⟩
  rcases hc with ⟨hr, rfl⟩ | ⟨hs', _⟩ | ⟨hr, _, ho, rfl⟩ | ⟨hr, _, _, rfl⟩
  · have hru : t.rstN = false := (portAccess_rstN hu).trans hr
    rw [State.clockEdge, if_neg (by simp [hru])]
  · cases hs.symm.trans hs'
  · have hou : u.curOp = .idle := (congrArg State.curOp (portAccess_hideHost hb hs hu) :).trans ho
    rw [clockEdge_after_access hr hb hs hu, State.cycle_idle (by exact hou)]
  · exact (clockEdge_after_access hr hb hs hu).symm

/-- Settles O52: the access changes only the fields hidden by `hideHost`, and the engine reads none of them. -/
theorem hostDoesNotDisturbCommand : Obligations.HostDoesNotDisturbCommand := by
  intro s t a line hb hs
  refine ⟨fun h => State.eq_of_hideHost (portAccess_hideHost hb hs h), fun h => State.eq_of_hideHost ?_⟩
  obtain ⟨u, hu, rfl⟩ := clockAccess_eq_clockEdge hb hs h
  calc (u.clockEdge line).hideHost
      = (u.hideHost.clockEdge line).hideHost := (u.hideHost_clockEdge line).symm
    _ = (s.hideHost.clockEdge line).hideHost := by rw [portAccess_hideHost hb hs hu]
    _ = (s.clockEdge line).hideHost := s.hideHost_clockEdge line

/-! ## The clock edges of a slot -/

/-- Inside a slot the line is driven while fewer than LOW µs of clock cycles have passed (R112). -/
theorem clockEdges_dqOe {s : State} {k : SlotKind} (h : Inv s) (hr : s.rstN = true) (hk : s.kind = some k)
    (lines : List Bool) (hl : s.slotClks + lines.length < k.total * Config.usDiv) :
    (s.clockEdges lines).dqOe = true ↔ s.slotClks + lines.length < k.low * Config.usDiv := by
  have hinv := h.clockEdges lines
  obtain ⟨hclks, hkind, -⟩ := clockEdges_mid h hr hk lines hl
  rw [hinv.drive_eq, State.lowPhase_eq hkind, decide_eq_true_iff, ← slotClks_lt hinv.pre_lt, hclks]

/-- Settles O55: the slot goes on, and its first LOW µs drive the line. -/
theorem lowPhaseTiming : Obligations.LowPhaseTiming := by
  intro s k lines h hr hk h0 hl
  have hlt : s.slotClks + lines.length < k.total * Config.usDiv := by omega
  obtain ⟨-, hkind, -⟩ := clockEdges_mid h hr hk lines hlt
  have hdq := clockEdges_dqOe h hr hk lines hlt
  rw [h0, Nat.zero_add] at hdq
  exact ⟨hkind, hdq.trans (by cases k <;> rfl)⟩

/-- A slot that takes no sample does not read the draw. -/
theorem State.takeSample_none {s : State} {k : SlotKind} (hk : s.kind = some k) (hs : k.sampleAt = none) (d : Bool) :
    s.takeSample d = s := by
  have hpending : s.samplePending = false := by
    unfold State.samplePending
    simp only [hk, hs]
  rw [State.takeSample, hpending]
  rfl

theorem State.slotStep_bus {s : State} {k : SlotKind} (hk : s.kind = some k) (d : Bool) :
    s.slotStep d = ((s.takeSample d).setPre 0).endSlot := by
  unfold State.slotStep
  rw [hk]

/-- The end of a slot reads neither the time nor the synchronizer. -/
theorem endSlot_setPre_withTime (s : State) (a b : Nat) (c : Bool) (e : List Bool) (ho : s.curOp ≠ .idle) :
    { ((s.withTime a b c e).setPre 0).endSlot with sync := [] } = { (s.setPre 0).endSlot with sync := [] } := by
  have clear : ∀ u : State, u.pre = 0 → { u with sync := [], pre := 0 } = { u with sync := [] } :=
    fun u hu => by rw [← hu]
  rw [← clear _ (State.endSlot_pre _), ← clear _ (State.endSlot_pre _)]
  exact endSlot_withTime (s.setPre 0) a 0 c e ho

/-- Before the last edge of a slot only the time and the synchronizer have moved, and the sample that was still to come
has been taken: the level shown at the edge at SAMPLE (R113, R115). -/
theorem clockEdges_takeSample {s : State} {k : SlotKind} (h : Inv s) (hr : s.rstN = true) (hk : s.kind = some k)
    (ls : List Bool) (hl : s.slotClks + ls.length + 1 = k.total * Config.usDiv) :
    ∃ d, s.clockEdges ls = (s.takeSample d).withTime (s.clockEdges ls).tUs (s.clockEdges ls).pre
        (s.clockEdges ls).dqOe (s.clockEdges ls).sync ∧
      ∀ t i, k.sampleAt = some t → s.slotClks + i + 1 = t * Config.usDiv →
        i < ls.length ∧ d = (s.clockEdges (ls.take i)).syncedLine (ls.getD i false) := by
  obtain ⟨-, -, d, hmid, hd⟩ := clockEdges_mid h hr hk ls (by omega)
  have passed : ∀ t, k.sampleAt = some t → t * Config.usDiv ≤ s.slotClks + ls.length := fun t ht => by
    have := Nat.mul_lt_mul_of_pos_right (SlotKind.sampleAt_lt ht).2 Config.usDiv_pos
    omega
  have hpending : (∃ t, k.sampleAt = some t ∧ s.slotClks < t * Config.usDiv ∧
      t * Config.usDiv ≤ s.slotClks + ls.length) ↔ s.samplePending = true := by
    rw [samplePending_iff h.pre_lt hk]
    exact exists_congr fun t => ⟨fun ⟨ht, hlt, _⟩ => ⟨ht, hlt⟩, fun ⟨ht, hlt⟩ => ⟨ht, hlt, passed t ht⟩⟩
  refine ⟨d, ?_, fun t i ht hi => ?_⟩
  · rw [if_congr hpending rfl rfl] at hmid
    exact hmid
  · have hlt : i < ls.length := by have := passed t ht; omega
    exact ⟨hlt, hd t i ht hi hlt⟩

/-- The clock edges left of a slot end it as one slot step does (R114). The draw is the level at the edge at SAMPLE. -/
theorem clockEdges_slot {s : State} {k : SlotKind} (h : Inv s) (hr : s.rstN = true) (hk : s.kind = some k)
    (ls : List Bool) (l : Bool) (hl : s.slotClks + ls.length + 1 = k.total * Config.usDiv) :
    ∃ d, { s.clockEdges (ls ++ [l]) with sync := [] } = { s.slotStep d with sync := [] } ∧
      ∀ t i, k.sampleAt = some t → s.slotClks + i + 1 = t * Config.usDiv →
        d = (s.clockEdges ((ls ++ [l]).take i)).syncedLine ((ls ++ [l]).getD i false) := by
  obtain ⟨d, hmid, hd⟩ := clockEdges_takeSample h hr hk ls hl
  refine ⟨d, ?_, fun t i ht hi => ?_⟩
  · have ho : s.curOp ≠ .idle := fun e => by simp [State.kind_none_iff.2 (.inl e)] at hk
    obtain ⟨hclks, hkind, -⟩ := clockEdges_mid h hr hk ls (by omega)
    rw [State.clockEdges_append,
      clockEdge_last (h.clockEdges ls) ((s.clockEdges_rstN ls).trans hr) hkind (by omega) l, State.slotStep_bus hk]
    generalize s.clockEdges ls = u at hmid ⊢
    generalize u.dqIn l = b
    have hu : u.shiftSync b = (s.takeSample d).withTime u.tUs u.pre u.dqOe (b :: u.sync).dropLast := by
      conv_lhs => rw [hmid]
      rfl
    rw [hu]
    exact endSlot_setPre_withTime _ _ _ _ _ (by simpa using ho)
  · obtain ⟨hlt, hlevel⟩ := hd t i ht hi
    rw [hlevel, List.take_append_of_le_length hlt.le, List.getD_append _ _ _ _ hlt]

/-- A run of clock edges in two parts. -/
theorem State.clockEdges_clockEdges (s : State) (ls ls' : List Bool) :
    (s.clockEdges ls).clockEdges ls' = s.clockEdges (ls ++ ls') :=
  List.foldl_append.symm

/-- The level shown at edge `n + i` is the line at edge `i`, `n` being the stages of the synchronizer (R115). -/
theorem syncedLine_take {s : State} (hr : s.rstN = true) (ls : List Bool) {i : Nat}
    (hi : i + s.sync.length < ls.length) :
    (s.clockEdges (ls.take (i + s.sync.length))).syncedLine (ls.getD (i + s.sync.length) false) =
      (s.clockEdges (ls.take i)).dqIn (ls.getD i false) := by
  have hrun : s.clockEdges (ls.take (i + s.sync.length)) =
      (s.clockEdges (ls.take i)).clockEdges ((ls.drop i).take s.sync.length) := by
    rw [State.clockEdges_clockEdges, List.take_add]
  have hlen : ((ls.drop i).take s.sync.length).length = (s.clockEdges (ls.take i)).sync.length := by
    rw [State.clockEdges_sync_length hr, List.length_take, List.length_drop]
    omega
  rw [hrun, State.syncedLine_clockEdges ((s.clockEdges_rstN _).trans hr) hlen]
  congr 1
  have hdrop : ls.drop i = ls.getD i false :: ls.drop (i + 1) := by
    rw [List.getD_eq_getElem _ _ (by omega), ← List.drop_eq_getElem_cons]
  rw [hdrop]
  cases s.sync.length <;> rfl

/-- In a slot's release phase the line is what the devices leave on it (R15). -/
theorem clockEdges_dqIn_released {s : State} {k : SlotKind} (h : Inv s) (hr : s.rstN = true) (hk : s.kind = some k)
    (lines : List Bool) (hlow : k.low * Config.usDiv ≤ s.slotClks + lines.length)
    (hl : s.slotClks + lines.length < k.total * Config.usDiv) (line : Bool) :
    (s.clockEdges lines).dqIn line = line := by
  have hd : (s.clockEdges lines).dqOe = false := by
    rw [← Bool.not_eq_true, clockEdges_dqOe h hr hk lines hl]
    omega
  rw [State.dqIn, hd, Bool.not_false, Bool.and_true]

/-- The sample of a whole slot shows the devices' level of SYNC_CLKS edges before, unless SYNC_CLKS exceeds US_DIV: the
low phase has been over for more than 1 µs at SAMPLE (R112, R115, R118). -/
theorem sampledLevel {s : State} {k : SlotKind} {t : Nat} (h : Inv s) (hr : s.rstN = true) (hk : s.kind = some k)
    (h0 : s.slotClks = 0) (ht : k.sampleAt = some t) (lines : List Bool)
    (hl : lines.length = k.total * Config.usDiv) (hc : Config.syncClks ≤ Config.usDiv) :
    (s.clockEdges (lines.take (t * Config.usDiv - 1))).syncedLine (lines.getD (t * Config.usDiv - 1) false) =
      lines.getD (t * Config.usDiv - 1 - Config.syncClks) false := by
  have hpos := Config.usDiv_pos
  obtain ⟨hlow, htotal⟩ := SlotKind.sampleAt_lt ht
  have hlow := Nat.mul_le_mul_right Config.usDiv hlow
  rw [Nat.add_mul] at hlow
  have htotal := Nat.mul_lt_mul_of_pos_right htotal hpos
  obtain ⟨i, hi⟩ : ∃ i, t * Config.usDiv - 1 = i + Config.syncClks :=
    ⟨t * Config.usDiv - 1 - Config.syncClks, by omega⟩
  have hlen : (lines.take i).length = i := List.length_take_of_le (by omega)
  rw [hi, Nat.add_sub_cancel, ← h.sync_length, syncedLine_take hr lines (by rw [h.sync_length]; omega)]
  exact clockEdges_dqIn_released h hr hk _ (by omega) (by omega) _

/-- Settles O53: the edges before the last pass the time of the slot and take its sample, and the last one ends it. -/
theorem clockedSlotIsSlotStep : Obligations.ClockedSlotIsSlotStep := by
  refine ⟨fun s k lines h hr hk hl => ?_, fun s lines d h hr hv hl => ?_⟩
  · have hlt := (slotClks_lt h.pre_lt k.total).2 (h.time_lt k hk)
    cases lines using List.reverseRecOn with
    | nil => simp at hl; omega
    | append_singleton ls l =>
      have hlen : s.slotClks + (ls ++ [l]).length = k.total * Config.usDiv := by omega
      obtain ⟨d, he, hd⟩ := clockEdges_slot h hr hk ls l (by simpa [← Nat.add_assoc] using hlen)
      refine ⟨d, he, fun t ht h0 => ?_, fun hw e => ?_⟩
      · replace ht : k.sampleAt = some t := by cases k <;> exact ht
        have hpos : 0 < t * Config.usDiv :=
          Nat.mul_pos (by have := SlotKind.sampleAt_lt ht; omega) Config.usDiv_pos
        have hd := hd t (t * Config.usDiv - 1) ht (by omega)
        refine ⟨hd, (Nat.lt_or_ge Config.usDiv Config.syncClks).symm.imp_left fun hc => ?_⟩
        rw [hd, sampledLevel h hr hk h0 ht _ (by omega) hc]
      · have hs : k.sampleAt = none := by rcases hw with rfl | rfl <;> rfl
        rw [State.slotStep_bus hk, State.slotStep_bus hk, State.takeSample_none hk hs, State.takeSample_none hk hs]
  · have hlt := h.vcnt_lt
    cases lines using List.reverseRecOn with
    | nil => simp at hl; omega
    | append_singleton ls l => rw [validate_clockEdges hr hv ls l d (by simp at hl; omega)]

/-! ## The clock edges of a command -/

/-- Clock cycles since the running command was accepted (R111, R170). -/
def State.clksRun (s : State) : Nat := if s.curOp = .validate then s.vCnt else s.elapsed

/-- Clock cycles from the acceptance of a command to its completion (R119, R170). -/
def Op.clks (op : Op) : Nat :=
  if op = .validate then Config.vCycles else op.slots * (op.slotUs * Config.usDiv)

/-- A clock edge while a command runs: one more cycle has passed, or it was the last and the command completes. -/
theorem command_clockEdge {s : State} (h : Inv s) (hr : s.rstN = true) (ho : s.curOp ≠ .idle) (l : Bool) :
    (s.clksRun + 1 ≠ s.curOp.clks ∧ (s.clockEdge l).busy = s.busy ∧ (s.clockEdge l).done = s.done ∧
      (s.clockEdge l).curOp = s.curOp ∧ (s.clockEdge l).clksRun = s.clksRun + 1) ∨
    (s.clksRun + 1 = s.curOp.clks ∧ (s.clockEdge l).busy = false ∧ (s.clockEdge l).done = true ∧
      (s.clockEdge l).curOp = .idle) := by
  unfold State.clksRun Op.clks
  by_cases hv : s.curOp = .validate
  · simp only [if_pos hv]
    refine (validate_clockEdge hr hv l).imp_left fun ⟨hn, hb, hd, hc, he⟩ => ⟨hn, hb, hd, hc, ?_⟩
    rw [if_pos (hc.trans hv), he]
  · simp only [if_neg hv]
    refine (bus_clockEdge h hr ho hv l).imp_left fun ⟨hn, hb, hd, hc, he⟩ => ⟨hn.ne, hb, hd, hc, ?_⟩
    rw [if_neg (by rwa [hc]), he]

/-- Before the last of its clock cycles a command runs on. -/
theorem command_clockEdges {s : State} (h : Inv s) (hr : s.rstN = true) (ho : s.curOp ≠ .idle) (lines : List Bool)
    (hl : s.clksRun + lines.length < s.curOp.clks) :
    (s.clockEdges lines).busy = s.busy ∧ (s.clockEdges lines).done = s.done ∧
      (s.clockEdges lines).curOp = s.curOp ∧ (s.clockEdges lines).clksRun = s.clksRun + lines.length := by
  induction lines using List.reverseRecOn with
  | nil => exact ⟨rfl, rfl, rfl, rfl⟩
  | append_singleton ls l ih =>
    rw [List.length_append, List.length_singleton] at hl ⊢
    obtain ⟨hb, hd, hc, he⟩ := ih (by omega)
    have hedge := command_clockEdge (h.clockEdges ls) ((s.clockEdges_rstN ls).trans hr) (by rwa [hc]) l
    rw [hc, he, hb, hd] at hedge
    rw [State.clockEdges_append]
    rcases hedge with ⟨_, hb', hd', hc', he'⟩ | ⟨hlast, _⟩
    · exact ⟨hb', hd', hc', he'⟩
    · omega

/-- The last of its clock cycles completes a command. -/
theorem command_clockEdges_last {s : State} (h : Inv s) (hr : s.rstN = true) (ho : s.curOp ≠ .idle) (ls : List Bool)
    (l : Bool) (hl : s.clksRun + ls.length + 1 = s.curOp.clks) :
    (s.clockEdges (ls ++ [l])).busy = false ∧ (s.clockEdges (ls ++ [l])).done = true ∧
      (s.clockEdges (ls ++ [l])).curOp = .idle := by
  obtain ⟨_, _, hc, he⟩ := command_clockEdges h hr ho ls (by omega)
  have hedge := command_clockEdge (h.clockEdges ls) ((s.clockEdges_rstN ls).trans hr) (by rwa [hc]) l
  rw [hc, he] at hedge
  rw [State.clockEdges_append]
  rcases hedge with ⟨hne, _⟩ | ⟨_, hdone⟩
  · exact absurd hl hne
  · exact hdone

/-- A command that has just been accepted (R95). -/
theorem exec_accepted {i : Instr} {s t : State} (hb : s.busy = false) (h : exec i s = .next t) :
    t.curOp = opOf i ∧ t.busy = true ∧ t.done = false ∧ t.clksRun = 0 ∧ t.rstN = s.rstN := by
  have start : (s.accept (opOf i) i.data).clksRun = 0 := by
    simp [State.clksRun, State.elapsed, State.slotClks, State.accept]
  rcases exec_cases h with ⟨hb', _⟩ | ⟨_, rfl, _⟩ | ⟨_, rfl, ho⟩
  · cases hb.symm.trans hb'
  · exact ⟨rfl, rfl, rfl, start, rfl⟩
  · rw [ho] at start
    exact ⟨ho.symm, rfl, rfl, start, rfl⟩

theorem opOf_clks_pos (i : Instr) : 0 < (opOf i).clks := by
  have := Config.usDiv_pos
  cases i with
  | validate => exact Config.vCycles_pos
  | _ => simp [Op.clks, opOf, Op.slots, Op.slotUs, this]

/-- Settles O54: the command runs on until its last clock cycle, and that one completes it. -/
theorem commandDurations : Obligations.CommandDurations := by
  intro i s t lines n h hr hb he hn
  obtain ⟨hc, htb, htd, h0, hrt⟩ := exec_accepted hb he
  have ht : Inv t := h.exec hr he
  have ho : t.curOp ≠ .idle := ht.busy_iff.1 htb
  replace hrt : t.rstN = true := hrt.trans hr
  replace hn : t.curOp.clks = n := by
    rw [hn, hc]
    cases i <;> simp [Op.clks, opOf, Op.slots, Op.slotUs] <;> omega
  refine ⟨fun hl => ?_, fun hl => ?_⟩
  · obtain ⟨hb', hd', _⟩ := command_clockEdges ht hrt ho lines (by omega)
    exact ⟨hb'.trans htb, hd'.trans htd⟩
  · cases lines using List.reverseRecOn with
    | nil =>
      have := opOf_clks_pos i
      rw [← hc, hn, ← hl] at this
      cases this
    | append_singleton ls l => exact command_clockEdges_last ht hrt ho ls l (by simp at hl; omega)

/-! ## The controller on its own -/

/-- Controller steps until the running command completes (R114). -/
def State.stepsLeft (s : State) : Nat := if s.curOp = .validate then 1 else s.curOp.slots - s.slotIdx

theorem Op.slots_le (op : Op) : op.slots ≤ 72 := by cases op <;> decide

theorem State.stepsLeft_le (s : State) : s.stepsLeft ≤ 72 := by
  have := s.curOp.slots_le
  unfold State.stepsLeft
  split <;> omega

/-- With no input pending a step completes the running command, or leaves one controller step fewer to take (R236). -/
theorem step_alone_progress {s : State} (h : Inv s) (hi : s.inputs = []) (hb : s.busy = true) :
    ∃ t, step s = .next t ∧
      ((s.stepsLeft = 1 ∧ t.busy = false ∧ t.done = true ∧ t.curOp = .idle) ∨
       (s.stepsLeft = t.stepsLeft + 1 ∧ Inv t ∧ t.inputs = [] ∧ t.busy = true)) := by
  have hframe := s.countDraw.slotStep_frame (Config.freeDraw s.draws)
  refine ⟨_, step_alone hi (h.busy_iff.1 hb), ?_⟩
  rcases h.countDraw.slotStep_progress hb (Config.freeDraw s.draws) with
    ⟨hb', hd, hc, hlast⟩ | ⟨hb', hc, hn, hv, hlt⟩
  · refine .inl ⟨?_, hb', hd, hc⟩
    simp only [State.countDraw_curOp, State.countDraw_slotIdx] at hlast
    unfold State.stepsLeft
    split
    · rfl
    next hv => have := hlast.resolve_left hv; omega
  · refine .inr ⟨?_, h.countDraw.slotStep _, hframe.inputs.trans hi, hb'⟩
    simp only [State.countDraw_curOp, State.countDraw_slotIdx] at hc hn hv hlt
    rw [State.stepsLeft, State.stepsLeft, hc, hn, if_neg hv, if_neg hv]
    omega

/-- With no input pending as many steps as there are controller steps left complete the running command (R236). -/
theorem run_stepsLeft {s : State} (h : Inv s) (hi : s.inputs = []) (hb : s.busy = true) :
    ∃ t : State, core.run s.stepsLeft s = .next t ∧ t.busy = false ∧ t.done = true ∧ t.curOp = .idle := by
  induction hn : s.stepsLeft generalizing s with
  | zero =>
    obtain ⟨_, _, ⟨h1, _⟩ | ⟨h1, _⟩⟩ := step_alone_progress h hi hb <;> omega
  | succ n ih =>
    obtain ⟨t, hstep, hnext⟩ := step_alone_progress h hi hb
    rw [run_next core hstep]
    rcases hnext with ⟨h1, hdone⟩ | ⟨h1, ht, hit, hbt⟩
    · obtain rfl : n = 0 := by omega
      exact ⟨t, rfl, hdone⟩
    · exact ih ht hit hbt (by omega)

/-- Settles O59: each step uses up one of the controller steps left. -/
theorem runningCommandTerminates : Obligations.RunningCommandTerminates := by
  intro s h hi hb
  obtain ⟨t, ht⟩ := run_stepsLeft h hi hb
  exact ⟨s.stepsLeft, t, rfl, s.stepsLeft_le, ht⟩

end Sys2Proof.Machine
end

section
/-! PROOFS of the statement of 41_byte_serializer.md that relates READ_SP to READ_BYTE (R152): each says bit by bit which
sample it stores, and the two agree on the sample. -/

namespace Sys2Proof.Machine

/-- RXDATA after READ_BYTE holds sample `i` in bit `i` (R145). -/
theorem readByte_rxdata {s t : State} {ign : Byte} (hb : s.busy = false) (h : exec (.readByte ign) s = .next t)
    {ds : List Bool} (hl : ds.length = 8) {i : Nat} (hi : i < 8) :
    (t.slotSteps ds).rxdata.getLsbD i = ds.getD i false := by
  obtain ⟨u, hu, -, -, hfull⟩ := readByteAssemblesSamples s ign hb
  cases h.symm.trans hu
  obtain ⟨r, hr, ht⟩ := hfull ds hl
  rw [ht]
  exact hr i hi

/-- SP after READ_SP holds sample `8j + i` in bit `i` of byte `j` (R150). -/
theorem readSp_sp {s t : State} {ign : Byte} (hb : s.busy = false) (h : exec (.readSp ign) s = .next t)
    {ds : List Bool} (hl : ds.length = 72) {j i : Nat} (hj : j < 9) (hi : i < 8) :
    (t.slotSteps ds).sp[j].getLsbD i = ds.getD (8 * j + i) false := by
  obtain ⟨u, hu, -, -, hfull⟩ := readSpFillsBuffer s ign hb
  cases h.symm.trans hu
  obtain ⟨sp, hsp, ht⟩ := hfull ds hl
  rw [ht]
  exact hsp j hj i hi

/-- Settles O19: bit `i` of either byte is sample `8j + i` of READ_SP. -/
theorem readSpIsNineReadBytes : Obligations.ReadSpIsNineReadBytes := by
  intro s s' t t' ign ign' ds j hj hb hb' ht ht' hl
  have hlen : ((ds.drop (8 * j)).take 8).length = 8 := by
    rw [List.length_take, List.length_drop]
    omega
  refine BitVec.eq_of_getLsbD_eq fun i hi => ?_
  calc (t.slotSteps ds).sp[j].getLsbD i
      = ds.getD (8 * j + i) false := readSp_sp hb ht hl hj hi
    _ = ((ds.drop (8 * j)).take 8).getD i false := by simp [List.getD_eq_getElem?_getD, hi]
    _ = (t'.slotSteps ((ds.drop (8 * j)).take 8)).rxdata.getLsbD i := (readByte_rxdata hb' ht' hlen hi).symm

end Sys2Proof.Machine
end

section
/-! PROOFS of the statements of 42_scratchpad_validator.md: CRC-8 by its byte step, the verdict by its checks, and
VALIDATE by its one step. -/

namespace Sys2Proof.Machine

/-! ## CRC-8 -/

/-- A byte clears the CRC register exactly when it equals it (R161, R163). -/
theorem crcByte_eq_zero_iff (c x : Byte) : crcByte c x = 0#8 ↔ x = c := by
  simp only [crcByte_eq, crcFold_zero_iff, BitVec.xor_eq_zero_iff]
  exact eq_comm

/-- The byte step is the single-byte CRC of register exclusive-or byte (R160). -/
theorem crcByte_eq_crc8_xor (c x : Byte) : crcByte c x = crc8 [c ^^^ x] := by
  rw [crc8, List.foldl_cons, List.foldl_nil, crcByte_eq, crcByte_eq, BitVec.zero_xor]

/-- The residue property (R163). -/
theorem crc8_append_eq_zero_iff (bs : List Byte) (x : Byte) : crc8 (bs ++ [x]) = 0#8 ↔ x = crc8 bs := by
  rw [crc8_append, crcByte_eq_zero_iff]

/-- Settles O22: the nine bytes of SP are the eight that the CRC is taken over, and SP[8] appended. -/
theorem crcResidue : Obligations.CrcResidue :=
  ⟨crc8_append_eq_zero_iff, fun s => eq_comm.trans (crc8_append_eq_zero_iff s.crcBytes s.sp[8]).symm⟩

/-- Settles O24, by induction on the number of zero bytes: each of them clears only a register that is 0. -/
theorem crcZeroOnlyFromZero : Obligations.CrcZeroOnlyFromZero := by
  intro c n
  induction n generalizing c with
  | zero => rfl
  | succ n ih => rw [List.replicate_succ, List.foldl_cons, ih, crcByte_eq_zero_iff, eq_comm]

/-- Settles O25. -/
theorem crcTableForm : Obligations.CrcTableForm := by
  intro bs b
  rw [crc8_append, crcByte_eq_crc8_xor]

/-- Settles O23, by running the CRC on each of the byte strings of R162. -/
theorem crcCheckValues : Obligations.CrcCheckValues := by
  unfold Obligations.CrcCheckValues
  decide +kernel

/-! ## The verdict -/

/-- The verdict is OK exactly when none of the checks of R171 fails. -/
theorem verdict_ok_iff {c e : Byte} {raw lo hi : Half} {on : Bool} : Machine.verdict c e raw on lo hi = .ok ↔
    (c = e ∧ raw ≠ 0x0000#16 ∧ raw ≠ 0x0550#16 ∧ raw ≠ 0xFFFF#16 ∧
      (on = true → lo.toInt ≤ raw.toInt ∧ raw.toInt ≤ hi.toInt)) := by
  -- The verdict is OK when each check in turn does not decide it; then the two range checks are read as bounds.
  simp only [Machine.verdict, ite_eq_iff, reduceCtorEq, and_false, false_or, and_true]
  simp only [ne_eq, not_not, not_and, gt_iff_lt, not_lt, imp_and]

/-- Settles O17. -/
theorem verdictAcceptsExactly : Obligations.VerdictAcceptsExactly := fun _ => verdict_ok_iff

/-! ## VALIDATE -/

/-- The checksum and the verdict are functions of SP, RANGE and the latched enable (R173). -/
theorem State.crcNow_verdict_congr {s t : State} (hsp : t.sp = s.sp) (hlo : t.rangeLo = s.rangeLo)
    (hhi : t.rangeHi = s.rangeHi) (hen : t.rangeEnL = s.rangeEnL) :
    t.crcNow = s.crcNow ∧ t.verdict = s.verdict := by
  have hcrc : t.crcNow = s.crcNow := by simp only [State.crcNow, State.crcBytes, hsp]
  exact ⟨hcrc, by simp only [State.verdict, State.raw, hcrc, hsp, hlo, hhi, hen]⟩

/-- VALIDATE run again right after VALIDATE leaves the whole state as it was, but for the latch of DATA (R173). -/
theorem completeValidate_again (s : State) (ign ign' : Byte) :
    completeValidate ((completeValidate (s.accept .validate ign)).accept .validate ign') =
      (completeValidate (s.accept .validate ign)).setData ign' := by
  simp only [State.accept_eq]
  rfl

/-- No register shows the latch of DATA (R40, R63). -/
theorem State.sameView_setData (s : State) (e : Byte) : s.SameView (s.setData e) := by
  intro r line
  cases r <;> rfl

/-- Settles O18: VALIDATE publishes the checksum and the verdict of its inputs and changes none of them, so that the
second one finds what the first one found. -/
theorem validateIsDeterministicAndIdempotent : Obligations.ValidateIsDeterministicAndIdempotent := by
  refine ⟨fun s t hs ht hsp hlo hhi hen d e => ?_, fun s d hs => ?_, fun s ign ign' d e hb => ?_⟩
  · obtain ⟨hcrc, hverdict⟩ := State.crcNow_verdict_congr hsp hlo hhi hen
    rw [State.slotStep_validate hs, State.slotStep_validate ht]
    simp [completeValidate, State.finish, hcrc, hverdict, hsp]
  · rw [State.slotStep_validate hs]
    exact ⟨rfl, rfl, rfl, rfl, rfl⟩
  · have hfirst : (s.accept .validate ign).slotStep d = completeValidate (s.accept .validate ign) :=
      State.slotStep_validate rfl d
    refine ⟨s.accept .validate ign, (completeValidate (s.accept .validate ign)).accept .validate ign',
      congrArg _ (State.request_idle hb), ?_, rfl, rfl, rfl, rfl, rfl, ?_, ?_⟩
    · rw [hfirst]
      exact congrArg _ (State.request_idle rfl)
    · rw [State.slotStep_validate rfl]
      rfl
    · rw [hfirst, State.slotStep_validate rfl, completeValidate_again]
      exact State.sameView_setData _ ign'

end Sys2Proof.Machine
end

section
/-! PROOFS of the statements of 60_exceptions.md: what a busy block does with a host access, and the interrupt output. -/

namespace Sys2Proof.Machine

/-! ## Host accesses while a command runs -/

/-- The BUSY check comes before everything else a write to one of these registers does (R193, R197 a). -/
theorem writeReg_busy {s : State} {r : Reg} (hb : s.busy = true)
    (hr : r = .cmd ∨ r = .sp0 ∨ r = .sp1 ∨ r = .sp2 ∨ r = .range) (v : Word) :
    writeReg r v s = .next s.raiseErrBusy := by
  have hwhen : ∀ f, s.whenIdle f = s.raiseErrBusy := fun _ => if_pos hb
  rcases hr with rfl | rfl | rfl | rfl | rfl
  · exact if_pos hb
  all_goals exact congrArg _ (hwhen _)

/-- Settles O38: the BUSY check turns the five writes away, and the other accesses at most clear ERR_BUSY. -/
theorem busyWritesRaiseErrBusy : Obligations.BusyWritesRaiseErrBusy := by
  intro s line hb hr
  refine ⟨fun r v hreg => ?_, fun r v t hreg h herr => ?_, fun r t h => ?_⟩
  · rw [portAccess_writeOf hr]
    exact writeReg_busy (s := s.noteReserved r v) hb hreg v
  · rcases hreg with rfl | rfl
    · cases hv : v.getLsbD 0 with
      | false =>
        rw [ctrlWriteSetsEnables s v line hr hv] at h
        obtain rfl := Host.Outcome.next.inj h
        exact herr
      | true =>
        rw [(softResetRestoresEverything s v line hr hv).1] at h
        obtain rfl := Host.Outcome.next.inj h
        cases herr
    · rw [portAccess_writeOf hr] at h
      obtain rfl := Host.Outcome.next.inj h
      exact (Bool.and_eq_true_iff.1 herr).1
  · rw [portAccess_read hr rfl] at h
    obtain rfl := Host.Outcome.next.inj h
    rfl

/-! ## The interrupt output -/

/-- The interrupt output as a proposition (R196). -/
theorem State.irq_iff {s : State} : s.irq = true ↔
    (s.done = true ∧ s.ieDone = true) ∨ ((s.errCmd = true ∨ s.errBusy = true) ∧ s.ieErr = true) := by
  simp only [State.irq, Bool.or_eq_true, Bool.and_eq_true]

theorem State.irq_of_disabled {s : State} (hd : s.ieDone = false) (he : s.ieErr = false) : s.irq = false := by
  simp [State.irq, hd, he]

theorem State.irq_of_no_cause {s : State} (hd : s.done = false) (hc : s.errCmd = false) (hb : s.errBusy = false) :
    s.irq = false := by
  simp [State.irq, hd, hc, hb]

/-- Settles O45: the CTRL write takes away the enables, the STATUS write and acceptance the bits they enable. -/
theorem irqIsLevelOfStatus : Obligations.IrqIsLevelOfStatus := by
  intro s line hr
  refine ⟨State.irq_iff, ⟨_, ctrlWriteSetsEnables s _ line hr (by decide), ?_, rfl, rfl, rfl⟩,
    ⟨_, statusWriteClearsSticky s _ line hr, ?_, rfl, rfl⟩, fun i hb hc he => ⟨_, exec_idle hb i, ?_⟩⟩
  · exact State.irq_of_disabled rfl rfl
  · exact State.irq_of_no_cause rfl rfl rfl
  · split <;> exact State.irq_of_no_cause rfl hc he

end Sys2Proof.Machine
end

section
/-! PROOFS of the statements of 70_reset_and_hazards.md about reset: the values that the registers show after it, and
the block held by `rst_n`. -/

namespace Sys2Proof.Machine

/-- Settles O26: of the words only STATUS shows the line; every other word has one value. -/
theorem resetValuesRead : Obligations.ResetValuesRead := by
  refine ⟨fun line => ⟨rfl, ?_, rfl, rfl, rfl, rfl, rfl, rfl, rfl, rfl⟩, rfl, rfl,
    State.irq_of_no_cause rfl rfl rfl⟩
  cases line
  · rfl
  · rfl

section HeldInReset
/-! What the block does while `rst_n = 0` (R220), whatever its registers hold. -/

variable {s : State} (hr : s.rstN = false)
include hr

theorem State.clockEdge_held (line : Bool) : s.clockEdge line = s := by
  simp [State.clockEdge, hr]

theorem portAccess_writeOf_held (r : Reg) (v : Word) (line : Bool) :
    portAccess (Access.writeOf r v) line s = .next (s.noteReserved r v) := by
  simp [portAccess, Access.writeOf, hr]

theorem portAccess_read_held {a : Access} (hw : a.write = false) (line : Bool) :
    portAccess a line s = .next { s with hRdata := 0#32 } := by
  simp [portAccess, hr, hw]

end HeldInReset

/-- Settles O28: the falling level puts the reset values in place, and `rst_n = 0` turns everything after it away. -/
theorem hardwareResetHolds : Obligations.HardwareResetHolds := by
  rintro s r rfl
  have held : (s.setRstN false).rstN = false := rfl
  have rises : ∀ u : State, u.setRstN true = { u with rstN := true } := fun _ => rfl
  exact ⟨rfl, State.irq_of_no_cause rfl rfl rfl, State.clockEdge_held held, portAccess_writeOf_held held,
    fun _ => portAccess_read_held held rfl, rises _⟩

end Sys2Proof.Machine
end
